-- ==== Sys2Proof/Word.lean ====
section
/-! DEFINITION. The bit-vector types of CORE (00_scope.md R7, R9). -/

namespace Sys2Proof

/-- A general register, a memory byte, an immediate `nn` (R20, R60, R93). -/
abbrev Byte := BitVec 8

/-- An instruction word, `I`, `pc`, a stack entry (R22, R23, R24, R90). -/
abbrev Word := BitVec 16

/-- A 4-bit field: a register number `x`, `y`, or the row count `n` (R92, R93). -/
abbrev Nibble := BitVec 4

/-- A 12-bit address field `nnn` (R93). -/
abbrev Addr12 := BitVec 12

end Sys2Proof
end

