-- ==== Sys2Proof/Syntax.lean ====
section
/-! DEFINITION. The 35 instructions of 30_encoding.md R95, one constructor per row of the opcode table, in its order.
Every operand bit of a row is kept, the don't-care ones of R99 too, so that a word is recovered from its instruction. -/

namespace Sys2Proof

inductive Instr where
  /-- `00E0 CLS` (R191). -/
  | cls
  /-- `00EE RET` (R122). -/
  | ret
  /-- `0NNN SYS nnn` (R121). -/
  | sys (nnn : Addr12)
  /-- `1NNN JP nnn` (R123). -/
  | jp (nnn : Addr12)
  /-- `2NNN CALL nnn` (R124). -/
  | call (nnn : Addr12)
  /-- `3XNN SE Vx, nn` (R125). -/
  | seImm (x : Nibble) (nn : Byte)
  /-- `4XNN SNE Vx, nn` (R126). -/
  | sneImm (x : Nibble) (nn : Byte)
  /-- `5XYn SE Vx, Vy` (R127); the low nibble `n` is a don't-care (R97). -/
  | seReg (x y n : Nibble)
  /-- `6XNN LD Vx, nn` (R140). -/
  | ldImm (x : Nibble) (nn : Byte)
  /-- `7XNN ADD Vx, nn` (R141). -/
  | addImm (x : Nibble) (nn : Byte)
  /-- `8XY0 LD Vx, Vy` (R142). -/
  | ldReg (x y : Nibble)
  /-- `8XY1 OR Vx, Vy` (R143). -/
  | orReg (x y : Nibble)
  /-- `8XY2 AND Vx, Vy` (R144). -/
  | andReg (x y : Nibble)
  /-- `8XY3 XOR Vx, Vy` (R145). -/
  | xorReg (x y : Nibble)
  /-- `8XY4 ADD Vx, Vy` (R146). -/
  | addReg (x y : Nibble)
  /-- `8XY5 SUB Vx, Vy` (R147). -/
  | subReg (x y : Nibble)
  /-- `8XY6 SHR Vx {, Vy}` (R148). -/
  | shr (x y : Nibble)
  /-- `8XY7 SUBN Vx, Vy` (R149). -/
  | subn (x y : Nibble)
  /-- `8XYE SHL Vx {, Vy}` (R150). -/
  | shl (x y : Nibble)
  /-- `9XYn SNE Vx, Vy` (R128); the low nibble `n` is a don't-care (R97). -/
  | sneReg (x y n : Nibble)
  /-- `ANNN LD I, nnn` (R170). -/
  | ldI (nnn : Addr12)
  /-- `BNNN JP V0, nnn` (R129). -/
  | jpV0 (nnn : Addr12)
  /-- `CXNN RND Vx, nn` (R151). -/
  | rnd (x : Nibble) (nn : Byte)
  /-- `DXYN DRW Vx, Vy, n` (R192). -/
  | drw (x y n : Nibble)
  /-- `EX9E SKP Vx` (R200). -/
  | skp (x : Nibble)
  /-- `EXA1 SKNP Vx` (R201). -/
  | sknp (x : Nibble)
  /-- `FX07 LD Vx, DT` (R204). -/
  | ldVxDt (x : Nibble)
  /-- `FX0A LD Vx, K` (R202). -/
  | ldVxK (x : Nibble)
  /-- `FX15 LD DT, Vx` (R205). -/
  | ldDtVx (x : Nibble)
  /-- `FX18 LD ST, Vx` (R206). -/
  | ldStVx (x : Nibble)
  /-- `FX1E ADD I, Vx` (R171). -/
  | addI (x : Nibble)
  /-- `FX29 LD F, Vx` (R172). -/
  | ldF (x : Nibble)
  /-- `FX33 LD B, Vx` (R173). -/
  | ldB (x : Nibble)
  /-- `FX55 LD [I], Vx` (R174). -/
  | storeRegs (x : Nibble)
  /-- `FX65 LD Vx, [I]` (R175). -/
  | loadRegs (x : Nibble)
  deriving DecidableEq, Repr

end Sys2Proof
end

