-- ==== Sys2Proof/Decode.lean ====
section
/-! DEFINITION. The decoder of 30_encoding.md R94, total on all 65536 words and on any bytes, and the encoder written from
the same table (R91, R92, R95). -/

namespace Sys2Proof

/-- Why bytes are no instruction. -/
inductive DecodeError where
  /-- R96: no row of the table matches the word. -/
  | unknownOpcode (w : Word)
  /-- R90: fewer than the two bytes an instruction has. -/
  | truncated
  deriving DecidableEq, Repr

/-! ## Fields (R91, R92) -/

/-- `w[15:12]`, the top nibble. -/
def nib3 (w : Word) : Nibble := w.extractLsb' 12 4
/-- `w[11:8]`, the field `x`. -/
def nib2 (w : Word) : Nibble := w.extractLsb' 8 4
/-- `w[7:4]`, the field `y`. -/
def nib1 (w : Word) : Nibble := w.extractLsb' 4 4
/-- `w[3:0]`, the field `n`. -/
def nib0 (w : Word) : Nibble := w.extractLsb' 0 4
/-- `w[7:0]`, the field `nn`. -/
def lowByte (w : Word) : Byte := w.extractLsb' 0 8
/-- `w[15:8]`. -/
def highByte (w : Word) : Byte := w.extractLsb' 8 8
/-- `w[11:0]`, the field `nnn`. -/
def low12 (w : Word) : Addr12 := w.extractLsb' 0 12

/-- A big-endian word: the byte at the lower address is the high byte (R66, R67). -/
def wordOfBytes (hi lo : Byte) : Word := hi ++ lo

/-! ## Zero-extension (R8, R93) -/

/-- `zext_16` of a byte (R8). -/
def Byte.zext (b : Byte) : Word := b.setWidth 16

/-- `zext_16` of a 12-bit address (R8). -/
def Addr12.zext (a : Addr12) : Word := a.setWidth 16

/-! ## Decoding -/

/-- `decode` of R94. That `5XYn` and `9XYn` decode whatever `n` is is R97; Q_STRICT_5_9 is applied where they execute
(log 9). -/
def decodeWord (w : Word) : Except DecodeError Instr :=
  let x := nib2 w
  let y := nib1 w
  let n := nib0 w
  let nn := lowByte w
  let nnn := low12 w
  match (nib3 w).toNat with
  | 0x0 => if w = 0x00E0#16 then .ok .cls else if w = 0x00EE#16 then .ok .ret else .ok (.sys nnn)
  | 0x1 => .ok (.jp nnn)
  | 0x2 => .ok (.call nnn)
  | 0x3 => .ok (.seImm x nn)
  | 0x4 => .ok (.sneImm x nn)
  | 0x5 => .ok (.seReg x y n)
  | 0x6 => .ok (.ldImm x nn)
  | 0x7 => .ok (.addImm x nn)
  | 0x8 =>
    match n.toNat with
    | 0x0 => .ok (.ldReg x y)
    | 0x1 => .ok (.orReg x y)
    | 0x2 => .ok (.andReg x y)
    | 0x3 => .ok (.xorReg x y)
    | 0x4 => .ok (.addReg x y)
    | 0x5 => .ok (.subReg x y)
    | 0x6 => .ok (.shr x y)
    | 0x7 => .ok (.subn x y)
    | 0xE => .ok (.shl x y)
    | _ => .error (.unknownOpcode w)
  | 0x9 => .ok (.sneReg x y n)
  | 0xA => .ok (.ldI nnn)
  | 0xB => .ok (.jpV0 nnn)
  | 0xC => .ok (.rnd x nn)
  | 0xD => .ok (.drw x y n)
  | 0xE =>
    match nn.toNat with
    | 0x9E => .ok (.skp x)
    | 0xA1 => .ok (.sknp x)
    | _ => .error (.unknownOpcode w)
  | 0xF =>
    match nn.toNat with
    | 0x07 => .ok (.ldVxDt x)
    | 0x0A => .ok (.ldVxK x)
    | 0x15 => .ok (.ldDtVx x)
    | 0x18 => .ok (.ldStVx x)
    | 0x1E => .ok (.addI x)
    | 0x29 => .ok (.ldF x)
    | 0x33 => .ok (.ldB x)
    | 0x55 => .ok (.storeRegs x)
    | 0x65 => .ok (.loadRegs x)
    | _ => .error (.unknownOpcode w)
  | _ => .error (.unknownOpcode w)

/-- Decoding a stream of bytes: two bytes, high byte first, and the rest of the stream (R66, R90). -/
def decodeBytes : List Byte → Except DecodeError (Instr × List Byte)
  | hi :: lo :: rest => (decodeWord (wordOfBytes hi lo)).map fun i => (i, rest)
  | _ => .error .truncated

/-- The instruction the decoder reads from the bits `w` of an `nbits`-bit row of the opcode table, the bits above `nbits`
being 0 (R90: every instruction is one 16-bit word). -/
def decodeTableWord (nbits w : Nat) : Option Instr :=
  let word := BitVec.ofNat 16 (w % 2 ^ nbits)
  match decodeBytes [highByte word, lowByte word] with
  | .ok (i, _) => some i
  | .error _ => none

/-! ## Encoding (R91, R95) -/

/-- The word of four nibbles, the top nibble first. -/
def ofNibbles (a b c d : Nibble) : Word := a ++ b ++ c ++ d
/-- Formats A (R91): the major opcode and a 12-bit address. -/
def formA (major : Nibble) (nnn : Addr12) : Word := major ++ nnn
/-- Formats I and X (R91): the major opcode, a register and a byte. -/
def formI (major x : Nibble) (nn : Byte) : Word := major ++ x ++ nn

/-- The word of an instruction. -/
def encode : Instr → Word
  | .cls => 0x00E0#16
  | .ret => 0x00EE#16
  | .sys nnn => formA 0x0#4 nnn
  | .jp nnn => formA 0x1#4 nnn
  | .call nnn => formA 0x2#4 nnn
  | .seImm x nn => formI 0x3#4 x nn
  | .sneImm x nn => formI 0x4#4 x nn
  | .seReg x y n => ofNibbles 0x5#4 x y n
  | .ldImm x nn => formI 0x6#4 x nn
  | .addImm x nn => formI 0x7#4 x nn
  | .ldReg x y => ofNibbles 0x8#4 x y 0x0#4
  | .orReg x y => ofNibbles 0x8#4 x y 0x1#4
  | .andReg x y => ofNibbles 0x8#4 x y 0x2#4
  | .xorReg x y => ofNibbles 0x8#4 x y 0x3#4
  | .addReg x y => ofNibbles 0x8#4 x y 0x4#4
  | .subReg x y => ofNibbles 0x8#4 x y 0x5#4
  | .shr x y => ofNibbles 0x8#4 x y 0x6#4
  | .subn x y => ofNibbles 0x8#4 x y 0x7#4
  | .shl x y => ofNibbles 0x8#4 x y 0xE#4
  | .sneReg x y n => ofNibbles 0x9#4 x y n
  | .ldI nnn => formA 0xA#4 nnn
  | .jpV0 nnn => formA 0xB#4 nnn
  | .rnd x nn => formI 0xC#4 x nn
  | .drw x y n => ofNibbles 0xD#4 x y n
  | .skp x => formI 0xE#4 x 0x9E#8
  | .sknp x => formI 0xE#4 x 0xA1#8
  | .ldVxDt x => formI 0xF#4 x 0x07#8
  | .ldVxK x => formI 0xF#4 x 0x0A#8
  | .ldDtVx x => formI 0xF#4 x 0x15#8
  | .ldStVx x => formI 0xF#4 x 0x18#8
  | .addI x => formI 0xF#4 x 0x1E#8
  | .ldF x => formI 0xF#4 x 0x29#8
  | .ldB x => formI 0xF#4 x 0x33#8
  | .storeRegs x => formI 0xF#4 x 0x55#8
  | .loadRegs x => formI 0xF#4 x 0x65#8

/-! ## The opcode map's masks and matches (R95), for the statements about them -/

/-- The `mask` column of R95: which bits of a word select the instruction. -/
def Instr.rowMask : Instr → Word
  | .cls | .ret => 0xFFFF#16
  | .sys _ | .jp _ | .call _ | .seImm _ _ | .sneImm _ _ | .seReg _ _ _ | .ldImm _ _ | .addImm _ _ | .sneReg _ _ _ | .ldI _
  | .jpV0 _ | .rnd _ _ | .drw _ _ _ => 0xF000#16
  | .ldReg _ _ | .orReg _ _ | .andReg _ _ | .xorReg _ _ | .addReg _ _ | .subReg _ _ | .shr _ _ | .subn _ _
  | .shl _ _ => 0xF00F#16
  | .skp _ | .sknp _ | .ldVxDt _ | .ldVxK _ | .ldDtVx _ | .ldStVx _ | .addI _ | .ldF _ | .ldB _ | .storeRegs _
  | .loadRegs _ => 0xF0FF#16

/-- The `match` column of R95. -/
def Instr.rowBits : Instr → Word
  | .cls => 0x00E0#16
  | .ret => 0x00EE#16
  | .sys _ => 0x0000#16
  | .jp _ => 0x1000#16
  | .call _ => 0x2000#16
  | .seImm _ _ => 0x3000#16
  | .sneImm _ _ => 0x4000#16
  | .seReg _ _ _ => 0x5000#16
  | .ldImm _ _ => 0x6000#16
  | .addImm _ _ => 0x7000#16
  | .ldReg _ _ => 0x8000#16
  | .orReg _ _ => 0x8001#16
  | .andReg _ _ => 0x8002#16
  | .xorReg _ _ => 0x8003#16
  | .addReg _ _ => 0x8004#16
  | .subReg _ _ => 0x8005#16
  | .shr _ _ => 0x8006#16
  | .subn _ _ => 0x8007#16
  | .shl _ _ => 0x800E#16
  | .sneReg _ _ _ => 0x9000#16
  | .ldI _ => 0xA000#16
  | .jpV0 _ => 0xB000#16
  | .rnd _ _ => 0xC000#16
  | .drw _ _ _ => 0xD000#16
  | .skp _ => 0xE09E#16
  | .sknp _ => 0xE0A1#16
  | .ldVxDt _ => 0xF007#16
  | .ldVxK _ => 0xF00A#16
  | .ldDtVx _ => 0xF015#16
  | .ldStVx _ => 0xF018#16
  | .addI _ => 0xF01E#16
  | .ldF _ => 0xF029#16
  | .ldB _ => 0xF033#16
  | .storeRegs _ => 0xF055#16
  | .loadRegs _ => 0xF065#16

end Sys2Proof
end

