-- ==== Sys2Proof/Config.lean ====
section
/-! DEFINITION. What an implementation fixes (the open parameters of 00_scope.md R6) and the one value the spec leaves free
(R10). The default values of the parameters are in Machine/Params.lean. CYCLES_PER_SECOND is timing only (R273; log 14). -/

namespace Sys2Proof

/-- The open parameters of R6. They are fixed for one machine: no step changes them. -/
structure Config where
  /-- FONT_BASE, 0 to 0x1B0 (R6, R62). -/
  fontBase : Fin 0x1B1
  /-- FONT_DATA, 16 glyphs of 5 bytes (R6, R63). -/
  fontData : Vector Byte 80
  /-- Q_SYS_NOP (R121, D4). -/
  sysNop : Bool
  /-- Q_STRICT_5_9 (R97, D5). -/
  strict59 : Bool
  /-- Q_SHIFT_VY (R148, R150, D6). -/
  shiftVy : Bool
  /-- Q_LOADSTORE_INC_I (R174, R175, D7). -/
  loadStoreIncI : Bool
  /-- Q_LOGIC_RESETS_VF (R143 to R145, D8). -/
  logicResetsVf : Bool
  /-- Q_MASK_LOW_NIBBLE (R172, R207, D19). -/
  maskLowNibble : Bool
  deriving DecidableEq, Repr

/-- FREE VALUE: the bytes `draw8()` returns, one per draw, under no law (R10, R151, D24; log 6). It has no body, so a claim
about it holds whatever the bytes are. -/
opaque Config.draw8 : Nat → Byte

end Sys2Proof
end

