-- ==== Sys2Proof/Machine/State.lean ====
section
/-! DEFINITION. The machine's state: the tuple of 10_state.md, the configuration of 00_scope.md R6, and three fields of the
model's own (`pending`, `reply`, `draws`). `State.reset` is the launch state of R36 for a ROM of no bytes (log 1). -/

namespace Sys2Proof.Machine

/-- The values of `exec_state` (R31). -/
inductive ExecState where
  /-- No ROM loaded; only before the first `LOAD` (R37, R263). -/
  | idle
  /-- Normal fetch, decode, execute. -/
  | running
  /-- An `FX0A` waits for a key to go down (R202). -/
  | waitingForKey
  /-- A fault was raised; left only by `LOAD` (R231). -/
  | halted
  deriving DecidableEq, Repr

/-- The fault kinds of R220, by name. -/
inductive FaultKind where
  /-- An access outside 0 to 4095 (R221). -/
  | outOfBounds
  /-- Unreachable: every register id is a 4-bit field (R225). -/
  | invalidRegister
  /-- `CALL` with `SP = 16` (R223). -/
  | stackOverflow
  /-- `RET` with `SP = 0` (R224). -/
  | stackUnderflow
  /-- `LOAD` of more than 3584 bytes; reported, never recorded (R226). -/
  | capacityExceeded
  /-- No instruction, or `SYS` (R222). -/
  | unknownOpcode
  /-- A key number or font digit above 15 (R227). -/
  | invalidOperand
  deriving DecidableEq, Repr

/-- The fault record `(kind, pc, opcode)` of R32; `opcode` is `none` when the fetch itself faulted. -/
structure FaultRecord where
  kind : FaultKind
  pc : Word
  opcode : Option Word
  deriving DecidableEq, Repr

/-- The display buffer: 32 rows of 64 pixels, `true` is on (R29, R190). -/
abbrev Display := Vector (Vector Bool 64) 32

/-- Memory as a list of the cells that differ from what an unlisted address reads as (`Memory.unlisted`; log 13). -/
abbrev Memory := List Host.Cell

/-- The host's transactions (R239). -/
inductive Transaction where
  /-- `LOAD(rom)` (R261, R262). -/
  | load (rom : List Byte)
  /-- `STEP_CYCLE` (R264). -/
  | stepCycle
  /-- `TICK_TIMERS` (R235). -/
  | tickTimers
  /-- `SET_KEY(k, down)` (R203, R237); `k` above 15 is refused. -/
  | setKey (k : Nat) (down : Bool)
  /-- `SNAPSHOT` (R194, R238). -/
  | snapshot
  /-- `SOUND_ACTIVE` (R236). -/
  | soundActive
  /-- `STOP` (R266). -/
  | stop
  deriving DecidableEq, Repr

/-- What a transaction reports to the host: the "result" column of R239. -/
inductive Reply where
  /-- `LOAD` or `STEP_CYCLE` went well. -/
  | ok
  /-- The transaction has no result. -/
  | none
  /-- `LOAD` was refused (R226, R262). -/
  | capacityExceeded
  /-- `STEP_CYCLE` faulted: the record, and the information the kind carries (R220, R228). -/
  | faulted (record : FaultRecord) (info : Option Word)
  /-- `SNAPSHOT`: a copy of the pixels (R194). -/
  | pixels (d : Display)
  /-- `SOUND_ACTIVE`: should the tone sound (R236). -/
  | sound (on : Bool)
  deriving DecidableEq, Repr

/-- Reasons for the model itself to stop. The spec's own faults are NOT here: their entry is described (R228), so raising
one is a next state in `Halted` (log 5). -/
inductive Fault where
  /-- An address the spec says does not exist was accessed. No definition raises it: every access is bounds-checked first
  and raises the spec's `OutOfBounds` instead (R64, R65, R66). Safe. -/
  | absentAddress (a : Nat)
  deriving DecidableEq, Repr

/-- Reasons for having no meaning. -/
inductive Refusal where
  /-- Raised only by an arm of `exec` whose instruction has no meaning yet; no arm is left so. Safe. -/
  | notModelled (mnemonic : String)
  deriving DecidableEq, Repr

structure State where
  /-- `V[0..15]`; `V[15]` is VF (R20, R21). -/
  v : Vector Byte 16
  /-- The index register `I` (R22). -/
  i : Word
  /-- The program counter (R23). -/
  pc : Word
  /-- `stack[0..SP-1]`, oldest entry first; its length is `SP` (R24; log 10). -/
  stack : List Word
  /-- The delay timer `DT` (R25). -/
  dt : Byte
  /-- The sound timer `ST` (R26). -/
  st : Byte
  /-- The key flags, `true` is down (R27). -/
  keys : Vector Bool 16
  /-- A key wait is pending (R28). -/
  waiting : Bool
  /-- The key wait's target register, 0 while there is none (R28; log 11). -/
  waitReg : Nibble
  /-- The display buffer (R29). -/
  disp : Display
  /-- `mem[0..4095]` (R30). -/
  mem : Memory
  /-- `exec_state` (R31). -/
  execState : ExecState
  /-- The fault record (R32). -/
  fault : Option FaultRecord
  /-- The open parameters (R6); no step changes them (log 7). -/
  config : Config
  /-- MODEL'S OWN: the host's transactions still to come; none left means `STEP_CYCLE` (log 3). -/
  pending : List Transaction
  /-- MODEL'S OWN: what the last transaction reported (log 4). -/
  reply : Reply
  /-- MODEL'S OWN: how many free bytes have been drawn (R10; log 6). -/
  draws : Nat
  deriving DecidableEq, Repr

/-- The state after reset: `LOAD` is the only reset (R260), and this is R36 for the ROM of no bytes (log 1). -/
def State.reset : State where
  v := Vector.replicate 16 0x00
  i := 0x0000
  pc := 0x0200
  stack := []
  dt := 0
  st := 0
  keys := Vector.replicate 16 false
  waiting := false
  waitReg := 0
  disp := Vector.replicate 32 (Vector.replicate 64 false)
  mem := []
  execState := .running
  fault := none
  config := defaultConfig
  pending := []
  reply := .ok
  draws := 0

end Sys2Proof.Machine
end

