-- ==== Sys2Proof/Machine/Ops.lean ====
section
/-! DEFINITION. The named operations over memory, registers, the stack and the display, and the one operation by which a
fault is taken (60_exceptions.md R228). There is no return from a fault (R231). -/

namespace Sys2Proof.Machine

/-! ## Memory (20_memory.md) -/

/-- MEM_SIZE (R5). -/
def memSize : Nat := 4096

/-- PROG_BASE (R5). -/
def progBase : Nat := 0x200

/-- ROM_MAX (R5). -/
def romMax : Nat := memSize - progBase

/-- What an unlisted address reads as: the contents `LOAD` gives every address no ROM byte covers, which are the font at
FONT_BASE and 0x00 elsewhere (R36, R61, R62, R261). -/
def Memory.unlisted (c : Config) (a : Nat) : Byte :=
  if c.fontBase.val ≤ a then c.fontData[a - c.fontBase.val]?.getD 0x00 else 0x00

/-- The byte at an address. -/
def Memory.read (c : Config) : Memory → Nat → Byte
  | [], a => Memory.unlisted c a
  | (b, x) :: rest, a => if a = b then x else Memory.read c rest a

/-- The cells without the one at `a`. -/
def Memory.erase : Memory → Nat → Memory
  | [], _ => []
  | (b, x) :: rest, a => if a = b then rest else (b, x) :: Memory.erase rest a

/-- The cells with `y` at `a`, their addresses still rising. -/
def Memory.put : Memory → Nat → Byte → Memory
  | [], a, y => [(a, y)]
  | (b, x) :: rest, a, y =>
    if a < b then (a, y) :: (b, x) :: rest else if a = b then (a, y) :: rest else (b, x) :: Memory.put rest a y

/-- Writing one byte. The canonical form is kept: writing what an unlisted address reads as takes the cell out. -/
def Memory.write (c : Config) (m : Memory) (a : Nat) (y : Byte) : Memory :=
  if y = Memory.unlisted c a then Memory.erase m a else Memory.put m a y

/-- The bytes at `a`, `a + 1`, … (`n` of them), ascending. -/
def Memory.readBytes (c : Config) (m : Memory) (a n : Nat) : List Byte :=
  (List.range n).map fun k => Memory.read c m (a + k)

/-- Writing the bytes at `a`, `a + 1`, …, ascending. -/
def Memory.writeBytes (c : Config) : Memory → Nat → List Byte → Memory
  | m, _, [] => m
  | m, a, y :: ys => Memory.writeBytes c (Memory.write c m a y) (a + 1) ys

/-- The canonical form: addresses strictly rising and inside memory, and no cell equal to what its address reads as when
it is unlisted. -/
abbrev Memory.wf (c : Config) (m : Memory) : Prop :=
  m.Pairwise (fun p q => p.1 < q.1) ∧ ∀ p ∈ m, p.1 < memSize ∧ p.2 ≠ Memory.unlisted c p.1

/-- `mem[a]`. -/
def State.byteAt (s : State) (a : Nat) : Byte := Memory.read s.config s.mem a

/-- Whether `n` bytes from `addr` lie inside memory, computed without wrapping (R64, R65, R73, R176). -/
def inBounds (addr : Word) (n : Nat) : Bool := n == 0 || addr.toNat + n - 1 ≤ 4095

/-- `MemRead(addr, n)`; `none` is `OutOfBounds` (R64). -/
def State.memRead (s : State) (addr : Word) (n : Nat) : Option (List Byte) :=
  if inBounds addr n then some (Memory.readBytes s.config s.mem addr.toNat n) else none

/-- `MemWrite(addr, n, bytes)`; `none` is `OutOfBounds`, and then no byte is written (R65). -/
def State.memWrite (s : State) (addr : Word) (bytes : List Byte) : Option State :=
  if inBounds addr bytes.length then
    some { s with mem := Memory.writeBytes s.config s.mem addr.toNat bytes }
  else none

/-- `fetch()`: the big-endian word at `pc`; `none` is `OutOfBounds` (R66). It changes nothing. -/
def State.fetch (s : State) : Option Word :=
  if s.pc.toNat > 0xFFE then none
  else some (wordOfBytes (s.byteAt s.pc.toNat) (s.byteAt (s.pc.toNat + 1)))

/-! ## Registers (10_state.md) -/

/-- `V[x]` (R20). -/
def State.getV (s : State) (x : Nibble) : Byte := s.v[x.toNat]'x.isLt

/-- `V[x] <- b` (R20). -/
def State.setV (s : State) (x : Nibble) (b : Byte) : State := { s with v := s.v.set x.toNat b x.isLt }

/-- `I <- w` (R22). -/
def State.setI (s : State) (w : Word) : State := { s with i := w }

/-- `pc <- w` (R23). -/
def State.setPc (s : State) (w : Word) : State := { s with pc := w }

/-- The end of an ordinary instruction: `pc <- (pc + 2) mod 2^16` (R120). -/
def State.advance (s : State) : State := s.setPc (s.pc + 2)

/-- The end of a skip instruction: over the next instruction iff the condition holds (R120). -/
def State.skipIf (s : State) (cond : Bool) : State := if cond then s.setPc (s.pc + 4) else s.advance

/-- The first registers take the given bytes, `V[0]` the first of them; the others keep their values (R175). -/
def State.loadV (s : State) (bytes : List Byte) : State :=
  { s with v := Vector.ofFn fun r : Fin 16 => bytes[r.val]?.getD s.v[r] }

/-- The values of `V[0]` to `V[x]`, in that order (R174). -/
def State.dumpV (s : State) (x : Nibble) : List Byte := s.v.toList.take (x.toNat + 1)

/-! ## The call stack (R24) -/

/-- STACK_DEPTH (R5). -/
def stackDepth : Nat := 16

/-- `SP`, the number of entries in use (R24, D12). -/
def State.sp (s : State) : Nat := s.stack.length

/-- `push(a)`; `none` is `StackOverflow` (R24). -/
def State.push (s : State) (a : Word) : Option State :=
  if s.sp < stackDepth then some { s with stack := s.stack ++ [a] } else none

/-- `pop()`: the newest entry and the state without it; `none` is `StackUnderflow` (R24). -/
def State.pop (s : State) : Option (Word × State) :=
  match s.stack.getLast? with
  | some a => some (a, { s with stack := s.stack.dropLast })
  | none => none

/-! ## The display (R190) -/

/-- `disp[y][x]`. -/
def Display.pixel (d : Display) (x : Fin 64) (y : Fin 32) : Bool := (d.get y).get x

/-- `disp[y][x] <- not disp[y][x]`. -/
def Display.flip (d : Display) (x : Fin 64) (y : Fin 32) : Display :=
  d.set y.val ((d.get y).set x.val (!Display.pixel d x y))

/-- Every pixel off (R191). -/
def Display.blank : Display := Vector.replicate 32 (Vector.replicate 64 false)

/-! ## Taking a fault (R11, R228) -/

/-- Fault entry: the record and `Halted`; nothing else changes (R228, R229). -/
def State.raise (s : State) (kind : FaultKind) (opcode : Option Word) : State :=
  { s with fault := some ⟨kind, s.pc, opcode⟩, execState := .halted }

/-- The instruction `i` at `pc` faults. The word that was fetched is the encoding of `i` (R94: no bit is lost). -/
def State.raiseAt (s : State) (kind : FaultKind) (i : Instr) : State := s.raise kind (some (encode i))

/-- The ordinals of R220 (D28). -/
def FaultKind.ordinal : FaultKind → Nat
  | .outOfBounds => 1
  | .invalidRegister => 2
  | .stackOverflow => 3
  | .stackUnderflow => 4
  | .capacityExceeded => 5
  | .unknownOpcode => 6
  | .invalidOperand => 7

end Sys2Proof.Machine
end

