-- ==== Sys2Proof/Machine/Flags.lean ====
section
/-! DEFINITION. The flags of 41_alu.md R152, R153: every flag is `0x00` or `0x01` in `V[15]`, written last. -/

namespace Sys2Proof.Machine

/-- The flag's byte (R21). -/
def flagByte (b : Bool) : Byte := if b then 0x01 else 0x00

/-- Carry of `a + b`: the unsigned sum exceeds 255 (R153). -/
def carry (a b : Byte) : Bool := a.toNat + b.toNat > 255

/-- No borrow in `a - b`: `a >= b` (R153). -/
def noBorrow (a b : Byte) : Bool := a.toNat ≥ b.toNat

/-- The bit a right shift by one moves out (R148). -/
def bitOutRight (a : Byte) : Bool := a.getLsbD 0

/-- The bit a left shift by one moves out (R150). -/
def bitOutLeft (a : Byte) : Bool := a.getLsbD 7

/-- `V[15] <-` the flag (R21). -/
def State.setFlag (s : State) (f : Bool) : State := s.setV 15 (flagByte f)

/-- The result into `V[x]`, then the flag into `V[15]`, then `pc + 2` (R152). Operands are read before this is called. -/
def State.writeWithFlag (s : State) (x : Nibble) (result : Byte) (f : Bool) : State :=
  ((s.setV x result).setFlag f).advance

/-- The result of a logic instruction into `V[x]`; with Q_LOGIC_RESETS_VF, `V[15] <- 0` after it; then `pc + 2` (R143). -/
def State.writeLogic (s : State) (x : Nibble) (result : Byte) : State :=
  let t := s.setV x result
  (if s.config.logicResetsVf then t.setV 15 0x00 else t).advance

end Sys2Proof.Machine
end

