-- ==== Sys2Proof/Machine/Operands.lean ====
section
/-! DEFINITION. The operand forms that are more than a register or an immediate. -/

namespace Sys2Proof.Machine

/-- A register's value used as a key number or font digit: 0 to 15, or the fault `InvalidOperand` (`none`); with
Q_MASK_LOW_NIBBLE the low nibble and no fault (R172, R207). -/
def State.digitOperand (s : State) (x : Nibble) : Option Nibble :=
  if s.config.maskLowNibble || (s.getV x).toNat ≤ 15 then some ((s.getV x).setWidth 4) else none

/-- `keys[k]` (R27). -/
def State.keyDown (s : State) (k : Nibble) : Bool := s.keys[k.toNat]'k.isLt

/-- The register `8XY6` and `8XYE` shift: `V[x]`, or `V[y]` with Q_SHIFT_VY (R148, R150). -/
def State.shiftOperand (s : State) (x y : Nibble) : Byte := if s.config.shiftVy then s.getV y else s.getV x

/-- The address of the glyph of a digit, `FONT_BASE + 5 * d` (R62, R172). -/
def glyphAddr (c : Config) (d : Nibble) : Word := BitVec.ofNat 16 (c.fontBase.val + 5 * d.toNat)

/-- Hundreds, tens, ones (R173). -/
def bcdDigits (b : Byte) : List Byte :=
  [BitVec.ofNat 8 (b.toNat / 100), BitVec.ofNat 8 (b.toNat / 10 % 10), BitVec.ofNat 8 (b.toNat % 10)]

/-- `I` after `FX55` or `FX65`: unchanged, or past the transfer with Q_LOADSTORE_INC_I (R174, R175). -/
def State.bumpI (s : State) (x : Nibble) : State :=
  if s.config.loadStoreIncI then s.setI (s.i + BitVec.ofNat 16 (x.toNat + 1)) else s

/-- The target of `BNNN`: `nnn + V[0]` mod 2^16 (R129). -/
def State.indexedTarget (s : State) (nnn : Addr12) : Word := nnn.zext + (s.getV 0).zext

end Sys2Proof.Machine
end

