-- ==== Sys2Proof/Machine/Alu.lean ====
section
/-! DEFINITION. Register load, arithmetic, logic, shifts, random: 41_alu.md. None of these can fault. -/

namespace Sys2Proof.Machine

/-- R140. -/
def execLdImm (x : Nibble) (nn : Byte) (s : State) : Host.Outcome State Fault Refusal := .next (s.setV x nn).advance

/-- R141: no flag. -/
def execAddImm (x : Nibble) (nn : Byte) (s : State) : Host.Outcome State Fault Refusal :=
  .next (s.setV x (s.getV x + nn)).advance

/-- R142. -/
def execLdReg (x y : Nibble) (s : State) : Host.Outcome State Fault Refusal := .next (s.setV x (s.getV y)).advance

/-- R143. -/
def execOrReg (x y : Nibble) (s : State) : Host.Outcome State Fault Refusal :=
  .next (s.writeLogic x (s.getV x ||| s.getV y))

/-- R144. -/
def execAndReg (x y : Nibble) (s : State) : Host.Outcome State Fault Refusal :=
  .next (s.writeLogic x (s.getV x &&& s.getV y))

/-- R145. -/
def execXorReg (x y : Nibble) (s : State) : Host.Outcome State Fault Refusal :=
  .next (s.writeLogic x (s.getV x ^^^ s.getV y))

/-- R146, R152. -/
def execAddReg (x y : Nibble) (s : State) : Host.Outcome State Fault Refusal :=
  let a := s.getV x
  let b := s.getV y
  .next (s.writeWithFlag x (a + b) (carry a b))

/-- R147, R152. -/
def execSubReg (x y : Nibble) (s : State) : Host.Outcome State Fault Refusal :=
  let a := s.getV x
  let b := s.getV y
  .next (s.writeWithFlag x (a - b) (noBorrow a b))

/-- R148, R152. -/
def execShr (x y : Nibble) (s : State) : Host.Outcome State Fault Refusal :=
  let a := s.shiftOperand x y
  .next (s.writeWithFlag x (a >>> 1) (bitOutRight a))

/-- R149, R152. -/
def execSubn (x y : Nibble) (s : State) : Host.Outcome State Fault Refusal :=
  let a := s.getV x
  let b := s.getV y
  .next (s.writeWithFlag x (b - a) (noBorrow b a))

/-- R150, R152. -/
def execShl (x y : Nibble) (s : State) : Host.Outcome State Fault Refusal :=
  let a := s.shiftOperand x y
  .next (s.writeWithFlag x (a <<< 1) (bitOutLeft a))

/-- `draw8()`: a free byte, and the state in which the next draw is another one (R10; log 6). -/
def State.draw (s : State) : Byte × State := (Config.draw8 s.draws, { s with draws := s.draws + 1 })

/-- R151. -/
def execRnd (x : Nibble) (nn : Byte) (s : State) : Host.Outcome State Fault Refusal :=
  let (r, t) := s.draw
  .next (t.setV x (r &&& nn)).advance

end Sys2Proof.Machine
end

