-- ==== Sys2Proof/Machine/Draw.lean ====
section
/-! DEFINITION. The display instructions CLS and DRW: 43_display.md. -/

namespace Sys2Proof.Machine

/-- R191: VF is not changed. -/
def execCls (s : State) : Host.Outcome State Fault Refusal := .next { s with disp := Display.blank }.advance

/-- A display and whether a pixel has gone from on to off so far. -/
abbrev Canvas := Display × Bool

/-- XOR of one pixel with 1 (R192: the innermost statements). -/
def Canvas.toggle (cv : Canvas) (px : Fin 64) (py : Fin 32) : Canvas :=
  (cv.1.flip px py, cv.2 || cv.1.pixel px py)

/-- One sprite row at row `y`: column `c` is bit `7 - c`, at `(x0 + c) mod 64` (R192). -/
def Canvas.drawRow (cv : Canvas) (x0 y : Nat) (bits : Byte) : Canvas :=
  (List.range 8).foldl
    (fun acc c => if bits.getLsbD (7 - c) then acc.toggle (Fin.ofNat 64 (x0 + c)) (Fin.ofNat 32 y) else acc) cv

/-- Sprite rows at rows `y0`, `y0 + 1`, … mod 32 (R192). -/
def Canvas.drawRows (x0 : Nat) : Canvas → Nat → List Byte → Canvas
  | cv, _, [] => cv
  | cv, y0, bits :: rest => Canvas.drawRows x0 (cv.drawRow x0 y0 bits) (y0 + 1) rest

/-- `draw_sprite`: the new display, and whether some pixel went from on to off (R192). Coordinates are taken mod 64 and
mod 32, and every pixel wraps. -/
def Display.drawSprite (d : Display) (x0 y0 : Nat) (rows : List Byte) : Canvas :=
  Canvas.drawRows (x0 % 64) (d, false) (y0 % 32) rows

/-- R192: VF is always written. -/
def execDrw (x y n : Nibble) (s : State) : Host.Outcome State Fault Refusal :=
  match s.memRead s.i n.toNat with
  | some rows =>
    let drawn := s.disp.drawSprite (s.getV x).toNat (s.getV y).toNat rows
    .next (({ s with disp := drawn.1 }.setFlag drawn.2).advance)
  | none => .next (s.raiseAt .outOfBounds (.drw x y n))

end Sys2Proof.Machine
end

