-- ==== Sys2Proof/Machine/Flow.lean ====
section
/-! DEFINITION. Control transfer, 40_flow.md: SYS, RET, JP, CALL, the skips on registers, JP V0. -/

namespace Sys2Proof.Machine

/-- R122. -/
def execRet (s : State) : Host.Outcome State Fault Refusal :=
  match s.pop with
  | some (a, t) => .next (t.setPc a)
  | none => .next (s.raiseAt .stackUnderflow .ret)

/-- R121: always the fault, unless Q_SYS_NOP. -/
def execSys (nnn : Addr12) (s : State) : Host.Outcome State Fault Refusal :=
  if s.config.sysNop then .next s.advance else .next (s.raiseAt .unknownOpcode (.sys nnn))

/-- R123. -/
def execJp (nnn : Addr12) (s : State) : Host.Outcome State Fault Refusal := .next (s.setPc nnn.zext)

/-- R124: what is pushed is the address of the instruction after the call. -/
def execCall (nnn : Addr12) (s : State) : Host.Outcome State Fault Refusal :=
  match s.push (s.pc + 2) with
  | some t => .next (t.setPc nnn.zext)
  | none => .next (s.raiseAt .stackOverflow (.call nnn))

/-- R125. -/
def execSeImm (x : Nibble) (nn : Byte) (s : State) : Host.Outcome State Fault Refusal := .next (s.skipIf (s.getV x == nn))

/-- R126. -/
def execSneImm (x : Nibble) (nn : Byte) (s : State) : Host.Outcome State Fault Refusal := .next (s.skipIf (s.getV x != nn))

/-- Whether a word `5XYn` or `9XYn` is refused: `n` is not 0 and Q_STRICT_5_9 is set (R97; log 9). -/
def State.strictRefuses (s : State) (n : Nibble) : Bool := s.config.strict59 && n != 0

/-- R127, R97. -/
def execSeReg (x y n : Nibble) (s : State) : Host.Outcome State Fault Refusal :=
  if s.strictRefuses n then .next (s.raiseAt .unknownOpcode (.seReg x y n)) else .next (s.skipIf (s.getV x == s.getV y))

/-- R128, R97. -/
def execSneReg (x y n : Nibble) (s : State) : Host.Outcome State Fault Refusal :=
  if s.strictRefuses n then .next (s.raiseAt .unknownOpcode (.sneReg x y n)) else .next (s.skipIf (s.getV x != s.getV y))

/-- R129. -/
def execJpV0 (nnn : Addr12) (s : State) : Host.Outcome State Fault Refusal := .next (s.setPc (s.indexedTarget nnn))

end Sys2Proof.Machine
end

