-- ==== Sys2Proof/Machine/IndexMemory.lean ====
section
/-! DEFINITION. The index register, the font address, BCD, register store and load: 42_index_memory.md. -/

namespace Sys2Proof.Machine

/-- R170. -/
def execLdI (nnn : Addr12) (s : State) : Host.Outcome State Fault Refusal := .next (s.setI nnn.zext).advance

/-- R171: no flag, no fault. -/
def execAddI (x : Nibble) (s : State) : Host.Outcome State Fault Refusal := .next (s.setI (s.i + (s.getV x).zext)).advance

/-- R172. -/
def execLdF (x : Nibble) (s : State) : Host.Outcome State Fault Refusal :=
  match s.digitOperand x with
  | some d => .next (s.setI (glyphAddr s.config d)).advance
  | none => .next (s.raiseAt .invalidOperand (.ldF x))

/-- R173. -/
def execLdB (x : Nibble) (s : State) : Host.Outcome State Fault Refusal :=
  match s.memWrite s.i (bcdDigits (s.getV x)) with
  | some t => .next t.advance
  | none => .next (s.raiseAt .outOfBounds (.ldB x))

/-- R174. -/
def execStoreRegs (x : Nibble) (s : State) : Host.Outcome State Fault Refusal :=
  match s.memWrite s.i (s.dumpV x) with
  | some t => .next (t.bumpI x).advance
  | none => .next (s.raiseAt .outOfBounds (.storeRegs x))

/-- R175. -/
def execLoadRegs (x : Nibble) (s : State) : Host.Outcome State Fault Refusal :=
  match s.memRead s.i (x.toNat + 1) with
  | some bytes => .next ((s.loadV bytes).bumpI x).advance
  | none => .next (s.raiseAt .outOfBounds (.loadRegs x))

end Sys2Proof.Machine
end

