-- ==== Sys2Proof/Machine/KeysTimers.lean ====
section
/-! DEFINITION. The key and timer instructions: 44_keys_timers.md. The second half of the key wait (R203) is the transaction
`SET_KEY`, in Machine/Transactions.lean. -/

namespace Sys2Proof.Machine

/-- R200, R207. -/
def execSkp (x : Nibble) (s : State) : Host.Outcome State Fault Refusal :=
  match s.digitOperand x with
  | some k => .next (s.skipIf (s.keyDown k))
  | none => .next (s.raiseAt .invalidOperand (.skp x))

/-- R201, R207. -/
def execSknp (x : Nibble) (s : State) : Host.Outcome State Fault Refusal :=
  match s.digitOperand x with
  | some k => .next (s.skipIf (!s.keyDown k))
  | none => .next (s.raiseAt .invalidOperand (.sknp x))

/-- R202: `pc` stays at this word, and a key already down does not count. -/
def execLdVxK (x : Nibble) (s : State) : Host.Outcome State Fault Refusal :=
  .next { s with waiting := true, waitReg := x, execState := .waitingForKey }

/-- R204. -/
def execLdVxDt (x : Nibble) (s : State) : Host.Outcome State Fault Refusal := .next (s.setV x s.dt).advance

/-- R205. -/
def execLdDtVx (x : Nibble) (s : State) : Host.Outcome State Fault Refusal := .next { s with dt := s.getV x }.advance

/-- R206. -/
def execLdStVx (x : Nibble) (s : State) : Host.Outcome State Fault Refusal := .next { s with st := s.getV x }.advance

end Sys2Proof.Machine
end

