-- ==== Sys2Proof/Machine/Transactions.lean ====
section
/-! DEFINITION. The seven transactions of 60_exceptions.md R239, each one atomic step of the machine (20_memory.md R74). -/

namespace Sys2Proof.Machine

/-- The outcome with its state changed. -/
def mapNext (f : State → State) : Host.Outcome State Fault Refusal → Host.Outcome State Fault Refusal
  | .next t => .next (f t)
  | .fault r => .fault r
  | .refused r => .refused r

/-- The transaction's result, for the host (log 4). -/
def State.answer (s : State) (r : Reply) : State := { s with reply := r }

/-! ## LOAD -/

/-- The state just after a successful `LOAD(rom)` (R36, R261). The list of no cells IS the zeroed memory with the font
written (`Memory.unlisted`). What is no state of the spec's is kept: the parameters, the host's schedule, the count of
draws (log 3, log 6, log 7). -/
def State.launch (s : State) (rom : List Byte) : State :=
  { State.reset with
    mem := Memory.writeBytes s.config [] progBase rom
    config := s.config, pending := s.pending, reply := s.reply, draws := s.draws }

/-- `LOAD(rom)`: the length is checked first, and a refused load changes no state (R261, R262, R226). -/
def State.load (s : State) (rom : List Byte) : State :=
  if rom.length ≤ romMax then (s.launch rom).answer .ok else s.answer .capacityExceeded

/-! ## STEP_CYCLE -/

/-- The information a fault carries beside its record: the raw word of `UnknownOpcode`, the register's value of
`InvalidOperand` (R220, R222, R227). -/
def State.faultInfo (s : State) (r : FaultRecord) : Option Word :=
  match r.kind with
  | .unknownOpcode => r.opcode
  | .invalidOperand => r.opcode.map fun w => (s.getV (nib2 w)).zext
  | .outOfBounds | .invalidRegister | .stackOverflow | .stackUnderflow | .capacityExceeded => none

/-- What `STEP_CYCLE` reports: the fault in `Halted` (the stored one again, if it was halted before; R264, log 4), else ok. -/
def State.cycleReport (s : State) : Reply :=
  match s.execState, s.fault with
  | .halted, some r => .faulted r (s.faultInfo r)
  | _, _ => .ok

/-- One instruction: fetch, decode, execute, in that order of checks (R230, R264). -/
def fetchDecodeExec (s : State) : Host.Outcome State Fault Refusal :=
  match s.fetch with
  | none => .next (s.raise .outOfBounds none)
  | some w =>
    match decodeWord w with
    | .ok i => exec i s
    | .error _ => .next (s.raise .unknownOpcode (some w))

/-- `STEP_CYCLE` (R264): no effect outside `Running`. -/
def stepCycle (s : State) : Host.Outcome State Fault Refusal :=
  mapNext (fun t => t.answer t.cycleReport) (if s.execState = .running then fetchDecodeExec s else .next s)

/-! ## TICK_TIMERS, SET_KEY -/

/-- One off a timer, floored at 0 (R25, R235). -/
def tickDown (t : Byte) : Byte := if t = 0 then 0 else t - 1

/-- `TICK_TIMERS` (R235): no effect in `Idle` and `Halted`. -/
def State.tickTimers (s : State) : State :=
  match s.execState with
  | .running | .waitingForKey => { s with dt := tickDown s.dt, st := tickDown s.st }
  | .idle | .halted => s

/-- The end of a key wait (R203); `waiting` and `wait_reg` are cleared (R28; log 11). -/
def State.completeWait (s : State) (k : Nibble) : State :=
  { s.setV s.waitReg (k.setWidth 8) with waiting := false, waitReg := 0, execState := .running, pc := s.pc + 2 }

/-- `SET_KEY(k, down)` (R203, R237): a `k` above 15 is refused; a false-to-true change ends a key wait. -/
def State.setKey (s : State) (k : Nat) (down : Bool) : State :=
  if h : k < 16 then
    let was := s.keys[k]
    let t := { s with keys := s.keys.set k down h }
    if s.execState = .waitingForKey ∧ down ∧ ¬was then t.completeWait (BitVec.ofNat 4 k) else t
  else s

/-- `SOUND_ACTIVE` (R236). -/
def State.soundActive (s : State) : Bool := s.st != 0

/-! ## One transaction -/

/-- Performs one transaction and records its result (R239). -/
def perform (s : State) : Transaction → Host.Outcome State Fault Refusal
  | .load rom => .next (s.load rom)
  | .stepCycle => stepCycle s
  | .tickTimers => .next (s.tickTimers.answer .none)
  | .setKey k down => .next ((s.setKey k down).answer .none)
  | .snapshot => .next (s.answer (.pixels s.disp))
  | .soundActive => .next (s.answer (.sound s.soundActive))
  | .stop => .next (s.answer .none)

/-- The host's next transaction and the state without it; a host with none left goes on with `STEP_CYCLE` (log 3). -/
def State.nextTransaction (s : State) : Transaction × State :=
  match s.pending with
  | [] => (.stepCycle, s)
  | tr :: rest => (tr, { s with pending := rest })

/-- One step of the machine: one transaction. -/
def performNext (s : State) : Host.Outcome State Fault Refusal := perform s.nextTransaction.2 s.nextTransaction.1

/-! ## Placing an instruction where the next step fetches -/

/-- The bytes of `word` stored at `pc`, which is moved to PROG_BASE if no instruction can be fetched there; the block is
`Running`, with no wait and no fault; and if the host has transactions left, a `STEP_CYCLE` comes first (log 1). -/
def State.placeWord (s : State) (word : Word) : State :=
  let at' := if s.pc.toNat > 0xFFE then BitVec.ofNat 16 progBase else s.pc
  { s with
    pc := at'
    mem := Memory.writeBytes s.config s.mem at'.toNat [highByte word, lowByte word]
    execState := .running, waiting := false, waitReg := 0, fault := none
    pending := if s.pending = [] then [] else .stepCycle :: s.pending }

end Sys2Proof.Machine
end

