-- ==== Sys2Proof/Machine/Step.lean ====
section
/-! DEFINITION. The step: one transaction of the host's schedule (R74, R239), which is a `STEP_CYCLE` unless the schedule
says otherwise. -/

namespace Sys2Proof.Machine

/-- One step. -/
def step (s : State) : Host.Outcome State Fault Refusal := performNext s

/-- `s` with the instruction whose bits are `w` where the next step fetches (the bits above `nbits` are 0). -/
def State.withFetchWord (s : State) (nbits w : Nat) : State := s.placeWord (BitVec.ofNat 16 (w % 2 ^ nbits))

end Sys2Proof.Machine
end

