-- ==== Sys2Proof/Safety.lean ====
section
/-! DEFINITION. The terms the claims use: what a state may share with another, which parts and registers an instruction or
a transaction may write, the invariant of every step, and where a sprite's bits lie. -/

namespace Sys2Proof.Machine

/-! ## Frames -/

/-- The parts of the state, for frame conditions (60_exceptions.md R243). `wait` is `waiting` and `wait_reg`; `mem` is the
byte at every address. -/
inductive Part where
  | v | i | pc | stack | dt | st | keys | wait | disp | mem | execState | fault | config | pending | reply | draws
  deriving DecidableEq, Repr

/-- The part is the same in both states. -/
def SamePart (s t : State) : Part → Prop
  | .v => ∀ r, t.getV r = s.getV r
  | .i => t.i = s.i
  | .pc => t.pc = s.pc
  | .stack => t.stack = s.stack
  | .dt => t.dt = s.dt
  | .st => t.st = s.st
  | .keys => t.keys = s.keys
  | .wait => t.waiting = s.waiting ∧ t.waitReg = s.waitReg
  | .disp => t.disp = s.disp
  | .mem => ∀ a, t.byteAt a = s.byteAt a
  | .execState => t.execState = s.execState
  | .fault => t.fault = s.fault
  | .config => t.config = s.config
  | .pending => t.pending = s.pending
  | .reply => t.reply = s.reply
  | .draws => t.draws = s.draws

/-- Every part but those listed is the same. -/
def SameBut (ps : List Part) (s t : State) : Prop := ∀ p, p ∉ ps → SamePart s t p

/-- Every register but those listed is the same. -/
def RegsBut (rs : List Nibble) (s t : State) : Prop := ∀ r, r ∉ rs → t.getV r = s.getV r

/-- The parts an instruction that completes may write (R243, from the instruction rules). -/
def instrParts : Instr → List Part
  | .cls => [.disp, .pc]
  | .ret | .call _ => [.stack, .pc]
  | .sys _ | .jp _ | .jpV0 _ | .seImm _ _ | .sneImm _ _ | .seReg _ _ _ | .sneReg _ _ _ | .skp _ | .sknp _ => [.pc]
  | .ldImm _ _ | .addImm _ _ | .ldReg _ _ | .orReg _ _ | .andReg _ _ | .xorReg _ _ | .addReg _ _ | .subReg _ _ | .shr _ _
  | .subn _ _ | .shl _ _ | .ldVxDt _ => [.v, .pc]
  | .rnd _ _ => [.v, .pc, .draws]
  | .ldI _ | .addI _ | .ldF _ => [.i, .pc]
  | .drw _ _ _ => [.v, .disp, .pc]
  | .ldVxK _ => [.wait, .execState]
  | .ldDtVx _ => [.dt, .pc]
  | .ldStVx _ => [.st, .pc]
  | .ldB _ => [.mem, .pc]
  | .storeRegs _ => [.mem, .i, .pc]
  | .loadRegs _ => [.v, .i, .pc]

/-- The general registers an instruction may write (R20, R21, R152). -/
def instrWritesReg (c : Config) : Instr → Nibble → Bool
  | .ldImm x _, r | .addImm x _, r | .ldReg x _, r | .rnd x _, r | .ldVxDt x, r => r == x
  | .orReg x _, r | .andReg x _, r | .xorReg x _, r => r == x || (c.logicResetsVf && r == 15)
  | .addReg x _, r | .subReg x _, r | .shr x _, r | .subn x _, r | .shl x _, r => r == x || r == 15
  | .drw _ _ _, r => r == 15
  | .loadRegs x, r => r.toNat ≤ x.toNat
  | .cls, _ | .ret, _ | .sys _, _ | .jp _, _ | .call _, _ | .seImm _ _, _ | .sneImm _ _, _ | .seReg _ _ _, _
  | .sneReg _ _ _, _ | .ldI _, _ | .jpV0 _, _ | .skp _, _ | .sknp _, _ | .ldVxK _, _ | .ldDtVx _, _ | .ldStVx _, _
  | .addI _, _ | .ldF _, _ | .ldB _, _ | .storeRegs _, _ => false

/-- The one fault an instruction itself may raise (R230); for the words of R97 only with Q_STRICT_5_9, and for `SYS` only
without Q_SYS_NOP. -/
def instrOwnFault (c : Config) : Instr → Option FaultKind
  | .call _ => some .stackOverflow
  | .ret => some .stackUnderflow
  | .drw _ _ _ | .ldB _ | .storeRegs _ | .loadRegs _ => some .outOfBounds
  | .skp _ | .sknp _ | .ldF _ => if c.maskLowNibble then none else some .invalidOperand
  | .sys _ => if c.sysNop then none else some .unknownOpcode
  | .seReg _ _ n | .sneReg _ _ n => if c.strict59 && n != 0 then some .unknownOpcode else none
  | .cls | .jp _ | .jpV0 _ | .seImm _ _ | .sneImm _ _ | .ldImm _ _ | .addImm _ _ | .ldReg _ _ | .orReg _ _ | .andReg _ _
  | .xorReg _ _ | .addReg _ _ | .subReg _ _ | .shr _ _ | .subn _ _ | .shl _ _ | .ldI _ | .rnd _ _ | .ldVxDt _ | .ldVxK _
  | .ldDtVx _ | .ldStVx _ | .addI _ => none

/-- The parts a transaction may write, `reply` apart (the table of R243). -/
def Transaction.parts : Transaction → List Part
  | .load _ => [.v, .i, .pc, .stack, .dt, .st, .keys, .wait, .disp, .mem, .execState, .fault]
  | .stepCycle => [.v, .i, .pc, .stack, .dt, .st, .wait, .disp, .mem, .execState, .fault, .draws]
  | .tickTimers => [.dt, .st]
  | .setKey _ _ => [.v, .pc, .keys, .wait, .execState]
  | .snapshot | .soundActive | .stop => []

/-- The instruction at `pc` faults: the record, `Halted`, and nothing else (R228). -/
def FaultsWith (s t : State) (kind : FaultKind) (opcode : Option Word) : Prop :=
  t.execState = .halted ∧ t.fault = some ⟨kind, s.pc, opcode⟩ ∧ SameBut [.execState, .fault] s t

/-! ## The invariant -/

/-- Power-on: `Idle` with no fault, every other piece of state any value (R37, R260). -/
def PowerOn (s : State) : Prop := s.execState = .idle ∧ s.fault = none

/-- What every step keeps. -/
structure Inv (s : State) : Prop where
  /-- Memory is in its canonical form, inside 0 to 4095. -/
  memory : Memory.wf s.config s.mem
  /-- `fault != none` exactly when `Halted` (R32). -/
  faultIffHalted : s.fault.isSome ↔ s.execState = .halted
  /-- The record's pc and opcode are those of the faulting instruction, which `pc` still points at, and its kind is one an
  instruction or a fetch can raise (R32, R225, R226, R229). -/
  faultRecord : ∀ r, s.fault = some r →
    r.pc = s.pc ∧ r.opcode = s.fetch ∧ r.kind ≠ .invalidRegister ∧ r.kind ≠ .capacityExceeded
  /-- `waiting` exactly when `WaitingForKey` (R28, C10). -/
  waitingIff : s.execState ≠ .idle → (s.waiting = true ↔ s.execState = .waitingForKey)
  /-- In `WaitingForKey`, `pc` is the address of the `FX0A` with target `wait_reg` (R23, R202). -/
  waitingAt : s.execState = .waitingForKey → s.fetch = some (encode (.ldVxK s.waitReg))
  /-- At most 16 return addresses, none above 0x1000 (R24, R122). -/
  stack : s.execState ≠ .idle → s.sp ≤ stackDepth ∧ ∀ a ∈ s.stack, a.toNat ≤ 0x1000
  /-- `pc` never exceeds 0x10FE (R23, C14). -/
  pc : s.execState ≠ .idle → s.pc.toNat ≤ 0x10FE

/-! ## Runs of one operation -/

/-- `push` of each address in turn (R24). -/
def State.pushAll (s : State) : List Word → Option State
  | [] => some s
  | a :: rest => (s.push a).bind fun t => t.pushAll rest

/-- `n` times `pop`: the addresses in the order they come (R24). -/
def State.popN (s : State) : Nat → Option (List Word × State)
  | 0 => some ([], s)
  | n + 1 => s.pop.bind fun at' => (at'.2.popN n).map fun r => (at'.1 :: r.1, r.2)

/-- `n` times `TICK_TIMERS` (R235). -/
def State.ticks (s : State) : Nat → State
  | 0 => s
  | n + 1 => s.tickTimers.ticks n

/-! ## A drawn sprite -/

/-- Some 1 bit of the sprite rows lies over the pixel, by the coordinates of R192: bit `7 - c` of row `r` is drawn at column
`(x0 + c) mod 64` and row `(y0 + r) mod 32`. -/
def spriteCovers (rows : List Byte) (x0 y0 : Nat) (px : Fin 64) (py : Fin 32) : Prop :=
  ∃ r c bits, rows[r]? = some bits ∧ c < 8 ∧ bits.getLsbD (7 - c) = true ∧ px.val = (x0 % 64 + c) % 64 ∧
    py.val = (y0 % 32 + r) % 32

/-- The rows `DRW` reads: `n` bytes at `I` (R192). -/
def State.spriteRows (s : State) (n : Nibble) : List Byte := (List.range n.toNat).map fun r => s.byteAt (s.i.toNat + r)

/-- Some 1 bit of the sprite at `I` lies over the pixel when `DRW Vx, Vy, n` runs (R192). -/
def State.drawCovers (s : State) (x y n : Nibble) (px : Fin 64) (py : Fin 32) : Prop :=
  spriteCovers (s.spriteRows n) (s.getV x).toNat (s.getV y).toNat px py

end Sys2Proof.Machine
end

