-- ==== Sys2Proof/Certificates/Slice0/Obligations.lean ====
section
/-! DEFINITION. The statements for the provers, from the numbered rules of spec/. Every statement about an instruction
quantifies over the parameters of R6 too: they are in the state (`s.config`). -/

open Sys2Proof Sys2Proof.Machine

/-! ## Encoding (30_encoding.md) -/

/-- R94, R95, R98: every well-formed instruction is what its word decodes to, whatever its operands. -/
def Obligations.DecodeOfEncode : Prop :=
  ∀ i : Instr, i.wellFormed = true → decodeWord (encode i) = .ok i

/-- R94, R98: a word that decodes is the word of a well-formed instruction, every bit of it; and the bytes of the word, high
byte first, decode to the same instruction and leave the bytes after them (R66, R90). -/
def Obligations.EncodeOfDecode : Prop :=
  ∀ w i rest, decodeWord w = .ok i →
    encode i = w ∧ i.wellFormed = true ∧ decodeBytes (highByte w :: lowByte w :: rest) = .ok (i, rest)

/-- R96: the illegal words are exactly these. -/
def Obligations.IllegalWordsExactly : Prop :=
  ∀ w, decodeWord w = .error (.unknownOpcode w) ↔
    (nib3 w = 0x8 ∧ nib0 w ∈ [0x8#4, 0x9#4, 0xA#4, 0xB#4, 0xC#4, 0xD#4, 0xF#4]) ∨
    (nib3 w = 0xE ∧ lowByte w ∉ [0x9E#8, 0xA1#8]) ∨
    (nib3 w = 0xF ∧
      lowByte w ∉ [0x07#8, 0x0A#8, 0x15#8, 0x18#8, 0x1E#8, 0x29#8, 0x33#8, 0x55#8, 0x65#8])

/-- R95: a word that matches the mask and match of an instruction's row decodes, and to an instruction of that row, but
that the rows of CLS and RET come before the row of SYS. -/
def Obligations.FirstMatchingRowWins : Prop :=
  ∀ (w : Word) (j : Instr), w &&& j.rowMask = j.rowBits →
    ∃ i, decodeWord w = .ok i ∧ w &&& i.rowMask = i.rowBits ∧
      ((i.rowMask = j.rowMask ∧ i.rowBits = j.rowBits) ∨ ((i = .cls ∨ i = .ret) ∧ ∃ nnn, j = .sys nnn))

/-- R91, R94, R97, R98: words of the spec's own decode examples (95_test_vectors.md 2.1, S2). -/
def Obligations.SampleWordsDecode : Prop :=
  decodeWord 0x6A02 = .ok (.ldImm 0xA 0x02) ∧ decodeWord 0x1ABC = .ok (.jp 0xABC) ∧
  decodeWord 0x5AB7 = .ok (.seReg 0xA 0xB 7) ∧ decodeWord 0x8ABE = .ok (.shl 0xA 0xB) ∧
  decodeWord 0xD01F = .ok (.drw 0 1 15) ∧ decodeWord 0xE1A1 = .ok (.sknp 1) ∧ decodeWord 0xF133 = .ok (.ldB 1) ∧
  decodeWord 0x00E1 = .ok (.sys 0x0E1) ∧ decodeWord 0x8AB8 = .error (.unknownOpcode 0x8AB8)

/-- R66, R67, R68: the word at `pc` is big-endian, at any parity, and cannot be fetched above 0xFFE. -/
def Obligations.FetchIsBigEndian : Prop :=
  ∀ s : State,
    (s.pc.toNat ≤ 0xFFE → ∃ w, s.fetch = some w ∧
      w.toNat = 256 * (s.byteAt s.pc.toNat).toNat + (s.byteAt (s.pc.toNat + 1)).toNat) ∧
    (0xFFE < s.pc.toNat → s.fetch = none)

/-! ## The step (70_reset_and_hazards.md R264) -/

/-- R264: when the word at `pc` decodes to `i`, a step in `Running` is `exec i`, and the report to the host is recorded;
so it is when the host's next transaction is `STEP_CYCLE`, which is then taken off the schedule (the model's own choice,
log 3). -/
def Obligations.StepRunsDecodedInstruction : Prop :=
  ∀ (s : State) (w : Word) (i : Instr), s.execState = .running → s.fetch = some w → decodeWord w = .ok i →
    (s.pending = [] → step s = mapNext (fun t => t.answer t.cycleReport) (exec i s)) ∧
    (∀ rest, s.pending = .stepCycle :: rest →
      step s = mapNext (fun t => t.answer t.cycleReport) (exec i { s with pending := rest }))

/-- R264, R66, R96, R221, R222: `STEP_CYCLE` outside `Running` changes nothing but the report; in `Running` a fetch out of
memory and an illegal word halt the block with their records, and nothing else changes. -/
def Obligations.StepCycleOtherwise : Prop :=
  ∀ s : State,
    (s.execState ≠ .running → perform s .stepCycle = .next (s.answer s.cycleReport)) ∧
    (s.execState = .running → 0xFFE < s.pc.toNat →
      ∃ t, perform s .stepCycle = .next t ∧ t.execState = .halted ∧ t.fault = some ⟨.outOfBounds, s.pc, none⟩ ∧
        t.reply = .faulted ⟨.outOfBounds, s.pc, none⟩ none ∧ SameBut [.execState, .fault, .reply] s t) ∧
    (∀ w, s.execState = .running → s.fetch = some w → decodeWord w = .error (.unknownOpcode w) →
      ∃ t, perform s .stepCycle = .next t ∧ t.execState = .halted ∧ t.fault = some ⟨.unknownOpcode, s.pc, some w⟩ ∧
        t.reply = .faulted ⟨.unknownOpcode, s.pc, some w⟩ (some w) ∧ SameBut [.execState, .fault, .reply] s t)

/-- R74, R239: a step IS the host's next transaction, performed on the state whose schedule it has been taken off; with
nothing scheduled it is a `STEP_CYCLE`. Nothing else reads the schedule (the schedule is the model's own, log 3). -/
def Obligations.StepPerformsNextTransaction : Prop :=
  ∀ s : State,
    (s.pending = [] → step s = perform s .stepCycle) ∧
    ∀ (tr : Transaction) (rest : List Transaction), s.pending = tr :: rest →
      ∃ t, step s = .next t ∧ perform { s with pending := rest } tr = .next t ∧ t.pending = rest ∧
        ∀ other, step { s with pending := tr :: other } = .next { t with pending := other }

/-! ## Control transfer (40_flow.md) -/

/-- R121: `SYS` faults with its word, or with Q_SYS_NOP does nothing. That the terms `sys 0x0E0` and `sys 0x0EE`, whose words
R121 excludes and which are never decoded, act as `SYS` too is the model's choice (log 15). -/
def Obligations.SysFaults : Prop :=
  ∀ (nnn : Addr12) (s : State),
    ∃ t, exec (.sys nnn) s = .next t ∧
      if s.config.sysNop then t.pc = s.pc + 2 ∧ SameBut [.pc] s t
      else FaultsWith s t .unknownOpcode (some (encode (.sys nnn))) ∧ (encode (.sys nnn)).toNat = nnn.toNat

/-- R122: `RET` takes the newest return address, or faults with an empty stack. -/
def Obligations.RetPopsReturnAddress : Prop :=
  ∀ s : State,
    (∀ (older : List Word) (a : Word), s.stack = older ++ [a] →
      ∃ t, exec .ret s = .next t ∧ t.pc = a ∧ t.stack = older ∧ SameBut [.stack, .pc] s t) ∧
    (s.sp = 0 → ∃ t, exec .ret s = .next t ∧ FaultsWith s t .stackUnderflow (some 0x00EE#16))

/-- R123, R129: the two jumps; the sum of `JP V0` is not reduced to 12 bits, and neither faults. -/
def Obligations.JumpTargets : Prop :=
  ∀ (nnn : Addr12) (s : State),
    (∃ t, exec (.jp nnn) s = .next t ∧ t.pc.toNat = nnn.toNat ∧ SameBut [.pc] s t) ∧
    (∃ t, exec (.jpV0 nnn) s = .next t ∧ t.pc.toNat = nnn.toNat + (s.getV 0).toNat ∧ t.pc.toNat ≤ 0x10FE ∧
      SameBut [.pc] s t)

/-- R124: `CALL` pushes the address of the next instruction, or faults at depth 16. -/
def Obligations.CallPushesReturnAddress : Prop :=
  ∀ (nnn : Addr12) (s : State),
    (s.sp < 16 → ∃ t, exec (.call nnn) s = .next t ∧ t.stack = s.stack ++ [s.pc + 2] ∧ t.sp = s.sp + 1 ∧
      t.pc.toNat = nnn.toNat ∧ SameBut [.stack, .pc] s t) ∧
    (s.sp = 16 → ∃ t, exec (.call nnn) s = .next t ∧ FaultsWith s t .stackOverflow (some (encode (.call nnn))))

/-- R125, R126: the skips on an immediate. -/
def Obligations.SkipsOnImmediate : Prop :=
  ∀ (x : Nibble) (nn : Byte) (s : State),
    (∃ t, exec (.seImm x nn) s = .next t ∧ SameBut [.pc] s t ∧
      t.pc = if s.getV x = nn then s.pc + 4 else s.pc + 2) ∧
    (∃ t, exec (.sneImm x nn) s = .next t ∧ SameBut [.pc] s t ∧
      t.pc = if s.getV x = nn then s.pc + 2 else s.pc + 4)

/-- R127, R128, R97: the skips on two registers, whatever the low nibble; with Q_STRICT_5_9 a nonzero one faults. -/
def Obligations.SkipsOnRegisters : Prop :=
  ∀ (x y n : Nibble) (s : State),
    (s.config.strict59 = false ∨ n = 0 →
      (∃ t, exec (.seReg x y n) s = .next t ∧ SameBut [.pc] s t ∧
        t.pc = if s.getV x = s.getV y then s.pc + 4 else s.pc + 2) ∧
      (∃ t, exec (.sneReg x y n) s = .next t ∧ SameBut [.pc] s t ∧
        t.pc = if s.getV x = s.getV y then s.pc + 2 else s.pc + 4)) ∧
    (s.config.strict59 = true → n ≠ 0 →
      (∃ t, exec (.seReg x y n) s = .next t ∧ FaultsWith s t .unknownOpcode (some (encode (.seReg x y n)))) ∧
      (∃ t, exec (.sneReg x y n) s = .next t ∧ FaultsWith s t .unknownOpcode (some (encode (.sneReg x y n)))))

/-! ## Registers and arithmetic (41_alu.md) -/

/-- R140, R141, R142: load immediate, add immediate (which wraps and writes no flag), load register. -/
def Obligations.LoadsAndAddImmediate : Prop :=
  ∀ (x y : Nibble) (nn : Byte) (s : State),
    ∀ p ∈ [(Instr.ldImm x nn, nn.toNat), (.addImm x nn, ((s.getV x).toNat + nn.toNat) % 256),
        (.ldReg x y, (s.getV y).toNat)],
      ∃ t, exec p.1 s = .next t ∧ (t.getV x).toNat = p.2 ∧ RegsBut [x] s t ∧ t.pc = s.pc + 2 ∧ SameBut [.v, .pc] s t

/-- R143, R144, R145: the logic results, bit by bit; VF is written only with Q_LOGIC_RESETS_VF, after the result. -/
def Obligations.LogicResults : Prop :=
  ∀ (x y : Nibble) (s : State),
    ∀ p ∈ [(Instr.orReg x y, fun a b => a || b), (.andReg x y, fun a b => a && b), (.xorReg x y, fun a b => a != b)],
      ∃ t, exec p.1 s = .next t ∧
        (∀ k < 8, (t.getV x).getLsbD k =
          if s.config.logicResetsVf ∧ x = 15#4 then false else p.2 ((s.getV x).getLsbD k) ((s.getV y).getLsbD k)) ∧
        (x ≠ 15#4 → t.getV 15#4 = if s.config.logicResetsVf then 0 else s.getV 15#4) ∧
        RegsBut [x, 15#4] s t ∧ t.pc = s.pc + 2 ∧ SameBut [.v, .pc] s t

/-- R146, R152: the sum mod 256 in Vx, the carry in VF, also when Vx is VF or an operand is. -/
def Obligations.AddSetsCarry : Prop :=
  ∀ (x y : Nibble) (s : State),
    ∃ t, exec (.addReg x y) s = .next t ∧
      (x ≠ 15#4 → (t.getV x).toNat = ((s.getV x).toNat + (s.getV y).toNat) % 256) ∧
      t.getV 15#4 = (if (s.getV x).toNat + (s.getV y).toNat > 255 then 1 else 0) ∧
      RegsBut [x, 15#4] s t ∧ t.pc = s.pc + 2 ∧ SameBut [.v, .pc] s t

/-- R147, R149, R152: `Vx - Vy` and `Vy - Vx` mod 256, and VF is 1 iff no borrow occurred. -/
def Obligations.SubtractionsSetNoBorrow : Prop :=
  ∀ (x y : Nibble) (s : State),
    ∀ p ∈ [(Instr.subReg x y, (s.getV x).toNat, (s.getV y).toNat), (.subn x y, (s.getV y).toNat, (s.getV x).toNat)],
      ∃ t, exec p.1 s = .next t ∧
        (x ≠ 15#4 → (t.getV x).toNat = (p.2.1 + 256 - p.2.2) % 256) ∧
        t.getV 15#4 = (if p.2.1 ≥ p.2.2 then 1 else 0) ∧
        RegsBut [x, 15#4] s t ∧ t.pc = s.pc + 2 ∧ SameBut [.v, .pc] s t

/-- R148, R150, R152: the shifts by one of Vx (of Vy with Q_SHIFT_VY) into Vx, and VF is the bit shifted out. -/
def Obligations.ShiftsSetBitOut : Prop :=
  ∀ (x y : Nibble) (s : State),
    let a := (if s.config.shiftVy then s.getV y else s.getV x).toNat
    (∃ t, exec (.shr x y) s = .next t ∧ (x ≠ 15#4 → (t.getV x).toNat = a / 2) ∧ (t.getV 15#4).toNat = a % 2 ∧
      RegsBut [x, 15#4] s t ∧ t.pc = s.pc + 2 ∧ SameBut [.v, .pc] s t) ∧
    (∃ t, exec (.shl x y) s = .next t ∧ (x ≠ 15#4 → (t.getV x).toNat = 2 * a % 256) ∧ (t.getV 15#4).toNat = a / 128 ∧
      RegsBut [x, 15#4] s t ∧ t.pc = s.pc + 2 ∧ SameBut [.v, .pc] s t)

/-- R151, R10: `Vx` is the free byte of this draw masked with `nn`, so it has no bit outside `nn`; the next draw is another
free byte. -/
def Obligations.RandomIsMasked : Prop :=
  ∀ (x : Nibble) (nn : Byte) (s : State),
    ∃ t, exec (.rnd x nn) s = .next t ∧ t.getV x = Config.draw8 s.draws &&& nn ∧ t.getV x &&& ~~~nn = 0 ∧
      t.draws = s.draws + 1 ∧ RegsBut [x] s t ∧ t.pc = s.pc + 2 ∧ SameBut [.v, .pc, .draws] s t

/-! ## Index register and memory (42_index_memory.md) -/

/-- R170, R171: loading I, and adding to it mod 2^16 with no flag. -/
def Obligations.IndexLoadAndAdd : Prop :=
  ∀ (x : Nibble) (nnn : Addr12) (s : State),
    ∀ p ∈ [(Instr.ldI nnn, nnn.toNat), (.addI x, (s.i.toNat + (s.getV x).toNat) % 65536)],
      ∃ t, exec p.1 s = .next t ∧ t.i.toNat = p.2 ∧ t.pc = s.pc + 2 ∧ SameBut [.i, .pc] s t

/-- R172: I points at the glyph of the digit; above 15 the fault, or the low nibble with Q_MASK_LOW_NIBBLE. -/
def Obligations.FontAddress : Prop :=
  ∀ (x : Nibble) (s : State),
    ((s.getV x).toNat ≤ 15 ∨ s.config.maskLowNibble = true →
      ∃ t, exec (.ldF x) s = .next t ∧ t.i.toNat = s.config.fontBase.val + 5 * ((s.getV x).toNat % 16) ∧
        t.pc = s.pc + 2 ∧ SameBut [.i, .pc] s t) ∧
    (15 < (s.getV x).toNat → s.config.maskLowNibble = false →
      ∃ t, exec (.ldF x) s = .next t ∧ FaultsWith s t .invalidOperand (some (encode (.ldF x))))

/-- R173, R176: the three decimal digits at I, or the fault and no byte. Memory is in its canonical form (`Inv`). -/
def Obligations.BcdStore : Prop :=
  ∀ (x : Nibble) (s : State), Memory.wf s.config s.mem →
    (s.i.toNat ≤ 4093 → ∃ t, exec (.ldB x) s = .next t ∧
      (t.byteAt s.i.toNat).toNat = (s.getV x).toNat / 100 ∧
      (t.byteAt (s.i.toNat + 1)).toNat = (s.getV x).toNat / 10 % 10 ∧
      (t.byteAt (s.i.toNat + 2)).toNat = (s.getV x).toNat % 10 ∧
      (∀ a, a < s.i.toNat ∨ s.i.toNat + 2 < a → t.byteAt a = s.byteAt a) ∧
      t.pc = s.pc + 2 ∧ SameBut [.mem, .pc] s t) ∧
    (4093 < s.i.toNat → ∃ t, exec (.ldB x) s = .next t ∧ FaultsWith s t .outOfBounds (some (encode (.ldB x))))

/-- R174, R176: V0 to Vx at I upward, or the fault and no byte; I moves only with Q_LOADSTORE_INC_I. -/
def Obligations.RegisterStore : Prop :=
  ∀ (x : Nibble) (s : State), Memory.wf s.config s.mem →
    (s.i.toNat + x.toNat ≤ 4095 → ∃ t, exec (.storeRegs x) s = .next t ∧
      (∀ r : Nibble, r.toNat ≤ x.toNat → t.byteAt (s.i.toNat + r.toNat) = s.getV r) ∧
      (∀ a, a < s.i.toNat ∨ s.i.toNat + x.toNat < a → t.byteAt a = s.byteAt a) ∧
      t.i.toNat = (if s.config.loadStoreIncI then s.i.toNat + x.toNat + 1 else s.i.toNat) ∧
      t.pc = s.pc + 2 ∧ SameBut [.mem, .i, .pc] s t) ∧
    (4095 < s.i.toNat + x.toNat →
      ∃ t, exec (.storeRegs x) s = .next t ∧ FaultsWith s t .outOfBounds (some (encode (.storeRegs x))))

/-- R175, R176: V0 to Vx from I upward, the other registers as before, or the fault and no register. -/
def Obligations.RegisterLoad : Prop :=
  ∀ (x : Nibble) (s : State),
    (s.i.toNat + x.toNat ≤ 4095 → ∃ t, exec (.loadRegs x) s = .next t ∧
      (∀ r : Nibble, t.getV r = if r.toNat ≤ x.toNat then s.byteAt (s.i.toNat + r.toNat) else s.getV r) ∧
      t.i.toNat = (if s.config.loadStoreIncI then s.i.toNat + x.toNat + 1 else s.i.toNat) ∧
      t.pc = s.pc + 2 ∧ SameBut [.v, .i, .pc] s t) ∧
    (4095 < s.i.toNat + x.toNat →
      ∃ t, exec (.loadRegs x) s = .next t ∧ FaultsWith s t .outOfBounds (some (encode (.loadRegs x))))

/-- R76: bytes stored by `FX55` over the next instruction are what the next fetch reads. -/
def Obligations.StoredWordIsFetchedNext : Prop :=
  ∀ (x : Nibble) (s : State), Memory.wf s.config s.mem → 1 ≤ x.toNat → s.i = s.pc + 2 →
    s.pc.toNat + 2 + x.toNat ≤ 4095 →
      ∃ t, exec (.storeRegs x) s = .next t ∧ t.fetch = some (wordOfBytes (s.getV 0) (s.getV 1))

/-- The canonical form is one (model's own, log 13): memories that read the same are the same data. -/
def Obligations.CanonicalMemoryIsUnique : Prop :=
  ∀ (c : Config) (m m' : Memory), Memory.wf c m → Memory.wf c m' →
    (∀ a, Memory.read c m a = Memory.read c m' a) → m = m'

/-- R64, R65: a range of memory is read or written as a whole, or it is out of bounds; none of no bytes ever is. -/
def Obligations.RangeIsCheckedAsAWhole : Prop :=
  ∀ (s : State) (addr : Word),
    (∀ n, n = 0 ∨ addr.toNat + n ≤ 4096 → ∃ bs, s.memRead addr n = some bs ∧ bs.length = n ∧
      ∀ k, k < n → bs[k]? = some (s.byteAt (addr.toNat + k))) ∧
    (∀ n, n ≠ 0 → 4096 < addr.toNat + n → s.memRead addr n = none) ∧
    (∀ bs : List Byte, Memory.wf s.config s.mem → addr.toNat + bs.length ≤ 4096 →
      ∃ t, s.memWrite addr bs = some t ∧ (∀ k, k < bs.length → bs[k]? = some (t.byteAt (addr.toNat + k))) ∧
        (∀ a, a < addr.toNat ∨ addr.toNat + bs.length ≤ a → t.byteAt a = s.byteAt a) ∧ SameBut [.mem] s t) ∧
    (∀ bs : List Byte, bs ≠ [] → 4096 < addr.toNat + bs.length → s.memWrite addr bs = none)

/-! ## Display (43_display.md) -/

/-- R191: every pixel off, VF as before. -/
def Obligations.ClearScreen : Prop :=
  ∀ s : State, ∃ t, exec .cls s = .next t ∧ (∀ px py, t.disp.pixel px py = false) ∧ t.pc = s.pc + 2 ∧
    SameBut [.disp, .pc] s t

/-- R192: exactly the pixels under the sprite's 1 bits change, every coordinate wrapping; VF is 1 iff one of them was on,
and is always written; or the fault, and neither display nor VF changes. -/
def Obligations.DrawSpritePixels : Prop :=
  ∀ (x y n : Nibble) (s : State),
    (n = 0 ∨ s.i.toNat + n.toNat ≤ 4096 → ∃ t, exec (.drw x y n) s = .next t ∧
      (∀ px py, s.drawCovers x y n px py → t.disp.pixel px py = !s.disp.pixel px py) ∧
      (∀ px py, ¬s.drawCovers x y n px py → t.disp.pixel px py = s.disp.pixel px py) ∧
      ((∃ px py, s.drawCovers x y n px py ∧ s.disp.pixel px py = true) → t.getV 15#4 = 1) ∧
      ((∀ px py, s.drawCovers x y n px py → s.disp.pixel px py = false) → t.getV 15#4 = 0) ∧
      RegsBut [15#4] s t ∧ t.pc = s.pc + 2 ∧ SameBut [.v, .disp, .pc] s t) ∧
    (n ≠ 0 → 4096 < s.i.toNat + n.toNat →
      ∃ t, exec (.drw x y n) s = .next t ∧ FaultsWith s t .outOfBounds (some (encode (.drw x y n))))

/-- A second draw with the same arguments restores the display (R193 (a)'s first sentence). When it collides is the MODEL'S
READING, by R192 and not by R193 (a)'s last clause, which differs (log 12): iff a pixel under a 1 bit was off before the first
draw. -/
def Obligations.DrawTwiceRestores : Prop :=
  ∀ (x y n : Nibble) (s : State), n = 0 ∨ s.i.toNat + n.toNat ≤ 4096 →
    ∃ t u, exec (.drw x y n) s = .next t ∧ exec (.drw x y n) { s with disp := t.disp } = .next u ∧ u.disp = s.disp ∧
      (u.getV 15#4 = 1 ↔ ∃ px py, s.drawCovers x y n px py ∧ s.disp.pixel px py = false)

/-- R193 (a)'s last clause as it is worded, which R192 does not give (log 12): the second of two identical draws sets VF iff
the sprite has a 1 bit. Expected to FAIL: when every pixel under the sprite was on, the second draw turns them on again. -/
def Obligations.SecondDrawCollidesIffSpriteNonzero : Prop :=
  ∀ (x y n : Nibble) (s t u : State), exec (.drw x y n) s = .next t → t.execState = s.execState →
    exec (.drw x y n) { s with disp := t.disp } = .next u → (u.getV 15#4 = 1 ↔ ∃ b ∈ s.spriteRows n, b ≠ 0)

/-- R193 (a)'s last clause as far as R192 gives it (log 12): if the first of two identical draws reported no collision, the
second one sets VF iff the sprite has a 1 bit. -/
def Obligations.SecondDrawAfterCleanDrawCollides : Prop :=
  ∀ (x y n : Nibble) (s : State), n = 0 ∨ s.i.toNat + n.toNat ≤ 4096 →
    ∃ t u, exec (.drw x y n) s = .next t ∧ exec (.drw x y n) { s with disp := t.disp } = .next u ∧
      (t.getV 15#4 = 0 → (u.getV 15#4 = 1 ↔ ∃ b ∈ s.spriteRows n, b ≠ 0))

/-! ## Keys and timers (44_keys_timers.md, 60_exceptions.md) -/

/-- R200, R201, R207: the skips on a key; a key number above 15 faults, or is masked with Q_MASK_LOW_NIBBLE. -/
def Obligations.SkipsOnKey : Prop :=
  ∀ (x : Nibble) (s : State),
    ((s.getV x).toNat ≤ 15 ∨ s.config.maskLowNibble = true → ∀ k : Nibble, k.toNat = (s.getV x).toNat % 16 →
      (∃ t, exec (.skp x) s = .next t ∧ SameBut [.pc] s t ∧
        t.pc = if s.keyDown k then s.pc + 4 else s.pc + 2) ∧
      (∃ t, exec (.sknp x) s = .next t ∧ SameBut [.pc] s t ∧
        t.pc = if s.keyDown k then s.pc + 2 else s.pc + 4)) ∧
    (15 < (s.getV x).toNat → s.config.maskLowNibble = false →
      (∃ t, exec (.skp x) s = .next t ∧ FaultsWith s t .invalidOperand (some (encode (.skp x)))) ∧
      (∃ t, exec (.sknp x) s = .next t ∧ FaultsWith s t .invalidOperand (some (encode (.sknp x)))))

/-- R204, R205, R206: the timers to and from registers; the tone sounds iff the value written to ST is not 0. -/
def Obligations.TimerTransfers : Prop :=
  ∀ (x : Nibble) (s : State),
    (∃ t, exec (.ldVxDt x) s = .next t ∧ t.getV x = s.dt ∧ RegsBut [x] s t ∧ t.pc = s.pc + 2 ∧ SameBut [.v, .pc] s t) ∧
    (∃ t, exec (.ldDtVx x) s = .next t ∧ t.dt = s.getV x ∧ t.pc = s.pc + 2 ∧ SameBut [.dt, .pc] s t) ∧
    (∃ t, exec (.ldStVx x) s = .next t ∧ t.st = s.getV x ∧ (t.soundActive = true ↔ s.getV x ≠ 0) ∧ t.pc = s.pc + 2 ∧
      SameBut [.st, .pc] s t)

/-- R202: the key wait is entered whatever the key flags are, and `pc` stays; from there `STEP_CYCLE` has no effect. -/
def Obligations.KeyWaitIsEntered : Prop :=
  ∀ (x : Nibble) (s : State),
    ∃ t, exec (.ldVxK x) s = .next t ∧ t.waiting = true ∧ t.waitReg = x ∧ t.execState = .waitingForKey ∧
      SameBut [.wait, .execState] s t ∧ ∃ u, perform t .stepCycle = .next u ∧ SameBut [.reply] t u

/-- R203, R237: `SET_KEY` writes its flag; a false-to-true change in `WaitingForKey` ends the wait with the key's id in the
target register; a key above 15 is refused. -/
def Obligations.SetKeyCompletesWait : Prop :=
  ∀ (s : State) (down : Bool),
    (∀ k : Nibble, ∃ t, perform s (.setKey k.toNat down) = .next t ∧ t.keyDown k = down ∧
      (∀ j : Nibble, j ≠ k → t.keyDown j = s.keyDown j) ∧
      if s.execState = .waitingForKey ∧ down = true ∧ s.keyDown k = false then
        (t.getV s.waitReg).toNat = k.toNat ∧ RegsBut [s.waitReg] s t ∧ t.waiting = false ∧ t.execState = .running ∧
          t.pc = s.pc + 2 ∧ SameBut [.v, .pc, .keys, .wait, .execState, .reply] s t
      else SameBut [.keys, .reply] s t) ∧
    (∀ k, 15 < k → ∃ t, perform s (.setKey k down) = .next t ∧ SameBut [.reply] s t)

/-- R235: `n` ticks take `n` off both counters, floored at 0, in `Running` and `WaitingForKey`, and nothing in `Idle` and
`Halted`; nothing else changes. -/
def Obligations.TicksFloorAtZero : Prop :=
  ∀ (s : State) (n : Nat),
    (∃ t, perform s .tickTimers = .next t ∧ SameBut [.reply] (s.ticks 1) t) ∧ SameBut [.dt, .st] s (s.ticks n) ∧
    (s.execState = .running ∨ s.execState = .waitingForKey →
      (s.ticks n).dt.toNat = s.dt.toNat - n ∧ (s.ticks n).st.toNat = s.st.toNat - n) ∧
    (s.execState = .idle ∨ s.execState = .halted → s.ticks n = s)

/-! ## Loading and the host's reads (70_reset_and_hazards.md, 60_exceptions.md) -/

/-- R36, R261: the launch state, from every state. That `LOAD` leaves the model's own schedule (log 3), its count of draws
(log 6) and the parameters held in the state (log 7) as they are, the last clause, is the model's choice. -/
def Obligations.LoadGivesLaunchState : Prop :=
  ∀ (s : State) (rom : List Byte), rom.length ≤ 3584 →
    ∃ t, perform s (.load rom) = .next t ∧ (∀ r, t.getV r = 0) ∧ t.i = 0 ∧ t.pc = 0x200 ∧ t.sp = 0 ∧ t.dt = 0 ∧
      t.st = 0 ∧ (∀ k, t.keyDown k = false) ∧ t.waiting = false ∧ (∀ px py, t.disp.pixel px py = false) ∧
      t.execState = .running ∧ t.fault = none ∧
      (∀ k, k < 80 → s.config.fontData[k]? = some (t.byteAt (s.config.fontBase.val + k))) ∧
      (∀ k, k < rom.length → rom[k]? = some (t.byteAt (0x200 + k))) ∧
      (∀ a, (a < s.config.fontBase.val ∨ s.config.fontBase.val + 80 ≤ a) → (a < 0x200 ∨ 0x200 + rom.length ≤ a) →
        t.byteAt a = 0) ∧
      SameBut (.reply :: (Transaction.load rom).parts) s t

/-- R262, R226: an oversize `LOAD` changes no state, and the host is told. -/
def Obligations.OversizeLoadIsRefused : Prop :=
  ∀ (s : State) (rom : List Byte), 3584 < rom.length →
    ∃ t, perform s (.load rom) = .next t ∧ t = { s with reply := .capacityExceeded }

/-- R194, R236, R266, R239: the host's reads and `STOP` change no state; a snapshot is the display, the tone is `ST != 0`,
`STOP` has no result. Where the result is kept is the model's own (log 4). -/
def Obligations.HostReadsChangeNothing : Prop :=
  ∀ s : State,
    (∃ t, perform s .snapshot = .next t ∧ t.reply = .pixels s.disp ∧ SameBut [.reply] s t) ∧
    (∃ t on, perform s .soundActive = .next t ∧ t.reply = .sound on ∧ (on = true ↔ 0 < s.st.toNat) ∧
      SameBut [.reply] s t) ∧
    (∃ t, perform s .stop = .next t ∧ t.reply = .none ∧ SameBut [.reply] s t)

/-- R260, R261, with log 1: `State.reset` is what loading a ROM of no bytes leaves, whatever the state before, with the
default parameters and an empty schedule. -/
def Obligations.ResetIsLoadOfEmptyRom : Prop :=
  ∀ s : State, s.config = defaultConfig → s.pending = [] → s.draws = 0 → perform s (.load []) = .next State.reset

/-! ## Faults and execution states (60_exceptions.md, 70_reset_and_hazards.md) -/

/-- R228, R229, R230: an instruction that halts the block raised its own one fault, precisely; an instruction with none never
halts it. -/
def Obligations.FaultsArePrecise : Prop :=
  ∀ (i : Instr) (s t : State), exec i s = .next t → s.execState ≠ .halted → t.execState = .halted →
    ∃ kind, instrOwnFault s.config i = some kind ∧ FaultsWith s t kind (some (encode i))

/-- R243, R21, R120: what each instruction leaves unchanged. Either it faulted, or it wrote its own parts and registers
alone. That `RND` writes the count of draws (log 6), and that no instruction writes the schedule (log 3), the report (log 4)
or the parameters (log 7), is the model's choice. -/
def Obligations.InstructionFrame : Prop :=
  ∀ (i : Instr) (s t : State), exec i s = .next t →
    (∃ kind, instrOwnFault s.config i = some kind ∧ FaultsWith s t kind (some (encode i))) ∨
    (SameBut (instrParts i) s t ∧ ∀ r, instrWritesReg s.config i r = false → t.getV r = s.getV r)

/-- R243: which transaction may change which state of the spec's. What it says of the fields that are no state of the spec's
is the model's choice: none writes the schedule, from which the step alone takes (log 3), every transaction may write the report
(log 4), only `STEP_CYCLE` may write the count of draws (log 6), and none the parameters (log 7). -/
def Obligations.TransactionFrame : Prop :=
  ∀ (tr : Transaction) (s t : State), perform s tr = .next t →
    SameBut (.reply :: tr.parts) s t ∧ (∀ k down, tr = .setKey k down → RegsBut [s.waitReg] s t)

/-- R263: the transitions of `exec_state`. -/
def Obligations.ExecStateTransitions : Prop :=
  ∀ (tr : Transaction) (s t : State), perform s tr = .next t →
    match tr with
    | .load rom => t.execState = if rom.length ≤ 3584 then .running else s.execState
    | .stepCycle =>
      if s.execState = .running then
        t.execState ≠ .idle ∧
        (t.execState = .waitingForKey ↔ ∃ w x, s.fetch = some w ∧ decodeWord w = .ok (.ldVxK x)) ∧
        (t.execState = .halted ↔ ∃ kind op, FaultsWith s (t.answer s.reply) kind op)
      else t.execState = s.execState
    | .setKey k down =>
      (s.execState = .waitingForKey → down = true → (∃ q : Nibble, q.toNat = k ∧ s.keyDown q = false) →
        t.execState = .running) ∧
      (¬(s.execState = .waitingForKey ∧ down = true ∧ ∃ q : Nibble, q.toNat = k ∧ s.keyDown q = false) →
        t.execState = s.execState)
    | .tickTimers | .snapshot | .soundActive | .stop => t.execState = s.execState

/-- R231, R242, R264, R235: in `Halted` every transaction but a successful `LOAD` leaves the block halted with the same
fault, and only `SET_KEY` changes anything, its key flag. -/
def Obligations.HaltedIsTerminal : Prop :=
  ∀ (tr : Transaction) (s t : State), s.execState = .halted → (∀ rom, tr = .load rom → 3584 < rom.length) →
    perform s tr = .next t →
      SameBut [.keys, .reply] s t ∧ ((∀ k down, tr ≠ .setKey k down) → SameBut [.reply] s t)

/-- Every state has a next state: no transaction and no instruction ends in a fault or a refusal of the model (R228: a fault
of the spec is a state in `Halted`; log 5). -/
def Obligations.StepAlwaysAnswers : Prop :=
  (∀ s : State, ∃ t, step s = .next t) ∧ (∀ (i : Instr) (s : State), ∃ t, exec i s = .next t)

/-- R276: at a jump to its own address every `STEP_CYCLE` leaves all state unchanged. -/
def Obligations.IdleLoopChangesNothing : Prop :=
  ∀ (s : State) (a : Addr12), s.execState = .running → s.pc.toNat = a.toNat → s.fetch = some (0x1#4 ++ a) →
    ∃ t, perform s .stepCycle = .next t ∧ t.reply = .ok ∧ SameBut [.reply] s t

/-- R24: up to depth 16, pushed addresses are popped in exact reverse order, and one more push fails. -/
def Obligations.StackReversesOrder : Prop :=
  ∀ (s : State) (addrs : List Word),
    (s.sp + addrs.length ≤ 16 →
      ∃ t, s.pushAll addrs = some t ∧ t.sp = s.sp + addrs.length ∧ t.popN addrs.length = some (addrs.reverse, s)) ∧
    (s.sp ≤ 16 → 16 < s.sp + addrs.length → s.pushAll addrs = none) ∧
    (s.sp = 0 → s.pop = none)

/-! ## What an instruction cannot see -/

/-- R26: no instruction reads ST. Another value of it changes nothing but ST itself. -/
def Obligations.SoundTimerIsUnread : Prop :=
  ∀ (i : Instr) (s t : State) (b : Byte), exec i s = .next t →
    exec i { s with st := b } = .next { t with st := if Part.st ∈ instrParts i then t.st else b }

/-- R193 (c), R35 (e): only `DRW` observes the display. -/
def Obligations.DisplayIsObservedByDrawOnly : Prop :=
  ∀ (i : Instr) (s t : State) (d : Display), (∀ x y n, i ≠ .drw x y n) → exec i s = .next t →
    exec i { s with disp := d } = .next { t with disp := if i = .cls then t.disp else d }

/-- R27, R200, R201: only `SKP` and `SKNP` observe the keys, and none writes them. -/
def Obligations.KeysAreReadBySkipsOnly : Prop :=
  ∀ (i : Instr) (s t : State) (ks : Vector Bool 16), (∀ x, i ≠ .skp x ∧ i ≠ .sknp x) → exec i s = .next t →
    t.keys = s.keys ∧ exec i { s with keys := ks } = .next { t with keys := ks }

/-! ## The invariant -/

/-- R23, R24, R28, R32, R229: every step keeps the invariant, from every state that has it. -/
def Obligations.StepKeepsInv : Prop :=
  ∀ s t : State, Inv s → step s = .next t → Inv t

/-- The invariant holds after reset, and at power-on whatever the state holds beside `Idle`, no fault and a memory in its
canonical form (R36, R37). -/
def Obligations.InvHoldsAtReset : Prop :=
  Inv State.reset ∧ ∀ s : State, PowerOn s → Memory.wf s.config s.mem → Inv s
end

