-- ==== Sys2Proof/Laws/Display.lean ====
section
/-! SUPPORT. The display: a flipped pixel, and what drawing a sprite does to every pixel (43_display.md R192). -/

namespace Sys2Proof.Machine

theorem Display.ext_pixel {d e : Display} (h : ∀ x y, d.pixel x y = e.pixel x y) : d = e := by
  apply Vector.ext
  intro y hy
  apply Vector.ext
  intro x hx
  exact h ⟨x, hx⟩ ⟨y, hy⟩

@[simp] theorem Display.pixel_blank (x : Fin 64) (y : Fin 32) : Display.blank.pixel x y = false := by
  simp [Display.blank, Display.pixel, Vector.get]

/-- One pixel flipped, every other as before. -/
theorem Display.pixel_flip (d : Display) (x px : Fin 64) (y py : Fin 32) :
    (d.flip x y).pixel px py = (d.pixel px py ^^ decide (px = x ∧ py = y)) := by
  have e (d : Display) (x : Fin 64) (y : Fin 32) : d.pixel x y = d[y.val][x.val] := rfl
  have g (d : Display) (y : Fin 32) : d.get y = d[y.val] := rfl
  rw [e, Display.flip]
  simp only [Vector.getElem_set, g, e]
  by_cases hy : y = py
  · subst hy
    by_cases hx : x = px
    · subst hx; simp
    · have hx' : x.val ≠ px.val := fun h => hx (Fin.ext h)
      simp [hx', Ne.symm hx]
  · have hy' : y.val ≠ py.val := fun h => hy (Fin.ext h)
    simp [hy', Ne.symm hy]

/-- Whether a 1 bit of the sprite lies over the pixel, computed: its column and row inside the sprite are taken backwards
from the start, mod 64 and mod 32. -/
def spriteBit (rows : List Byte) (x0 y0 : Nat) (px : Fin 64) (py : Fin 32) : Bool :=
  let c := (px.val + 64 - x0 % 64) % 64
  let r := (py.val + 32 - y0 % 32) % 32
  decide (c < 8) && (rows[r]?.getD 0).getLsbD (7 - c)

/-- The computed bit is R192's (at most 32 rows). -/
theorem spriteBit_eq_true (rows : List Byte) (h : rows.length ≤ 32) (x0 y0 : Nat) (px : Fin 64) (py : Fin 32) :
    spriteBit rows x0 y0 px py = true ↔ spriteCovers rows x0 y0 px py := by
  have hx := px.isLt
  have hy := py.isLt
  simp only [spriteBit, spriteCovers, Bool.and_eq_true, decide_eq_true_eq]
  constructor
  · rintro ⟨hc, hb⟩
    cases hr : rows[(py.val + 32 - y0 % 32) % 32]? with
    | none => simp [hr] at hb
    | some bits =>
      rw [hr, Option.getD_some] at hb
      exact ⟨_, _, bits, hr, hc, hb, by omega, by omega⟩
  · rintro ⟨r, c, bits, hr, hc, hb, ex, ey⟩
    have hl : r < 32 := Nat.lt_of_lt_of_le (List.getElem?_eq_some_iff.1 hr).1 h
    have e1 : (px.val + 64 - x0 % 64) % 64 = c := by omega
    have e2 : (py.val + 32 - y0 % 32) % 32 = r := by omega
    rw [e1, e2, hr]
    exact ⟨hc, hb⟩

/-! ## One sprite row, its first `k` columns -/

/-- Whether one of the first `k` columns of a sprite row at row `y` has a 1 bit over the pixel. -/
def rowBit (k : Nat) (bits : Byte) (x0 y : Nat) (px : Fin 64) (py : Fin 32) : Bool :=
  let c := (px.val + 64 - x0 % 64) % 64
  decide (py.val = y % 32) && (decide (c < k) && bits.getLsbD (7 - c))

/-- The first `k` columns of a sprite row. -/
def Canvas.drawColumns (cv : Canvas) (k x0 y : Nat) (bits : Byte) : Canvas :=
  (List.range k).foldl
    (fun acc c => if bits.getLsbD (7 - c) then acc.toggle (Fin.ofNat 64 (x0 + c)) (Fin.ofNat 32 y) else acc) cv

theorem Canvas.drawColumns_succ (cv : Canvas) (k x0 y : Nat) (bits : Byte) :
    cv.drawColumns (k + 1) x0 y bits =
      if bits.getLsbD (7 - k) then
        (cv.drawColumns k x0 y bits).toggle (Fin.ofNat 64 (x0 + k)) (Fin.ofNat 32 y)
      else cv.drawColumns k x0 y bits := by
  simp [Canvas.drawColumns, List.range_succ]

theorem rowBit_succ {k : Nat} (hk : k < 8) (bits : Byte) (x0 y : Nat) (px : Fin 64) (py : Fin 32) :
    rowBit (k + 1) bits x0 y px py =
      (rowBit k bits x0 y px py ^^
        (bits.getLsbD (7 - k) && decide (px = Fin.ofNat 64 (x0 + k) ∧ py = Fin.ofNat 32 y))) := by
  have hx : px = Fin.ofNat 64 (x0 + k) ↔ (px.val + 64 - x0 % 64) % 64 = k := by
    rw [Fin.ext_iff, Fin.val_ofNat]; omega
  have hy : py = Fin.ofNat 32 y ↔ py.val = y % 32 := by rw [Fin.ext_iff, Fin.val_ofNat]
  simp only [rowBit, hx, hy]
  generalize (px.val + 64 - x0 % 64) % 64 = c
  by_cases h1 : py.val = y % 32 <;> simp only [h1, decide_true, decide_false, Bool.true_and, Bool.false_and,
    and_true, and_false, decide_false, Bool.and_false, Bool.bne_false]
  rcases Nat.lt_trichotomy c k with h | h | h
  · simp [h, Nat.lt_succ_of_lt h, Nat.ne_of_lt h]
  · subst h; simp
  · simp [Nat.not_lt_of_gt h, show ¬c < k + 1 by omega, Nat.ne_of_gt h]

theorem Canvas.pixel_drawColumns (cv : Canvas) {k : Nat} (hk : k ≤ 8) (x0 y : Nat) (bits : Byte) (px : Fin 64)
    (py : Fin 32) :
    (cv.drawColumns k x0 y bits).1.pixel px py = (cv.1.pixel px py ^^ rowBit k bits x0 y px py) := by
  induction k with
  | zero => simp [Canvas.drawColumns, rowBit]
  | succ k ih =>
    have ih := ih (by omega)
    rw [Canvas.drawColumns_succ, rowBit_succ (by omega)]
    cases hb : bits.getLsbD (7 - k)
    · simpa using ih
    · simp [Canvas.toggle, Display.pixel_flip, ih]

theorem Canvas.collision_drawColumns (cv : Canvas) {k : Nat} (hk : k ≤ 8) (x0 y : Nat) (bits : Byte) :
    (cv.drawColumns k x0 y bits).2 = true ↔
      cv.2 = true ∨ ∃ px py, rowBit k bits x0 y px py = true ∧ cv.1.pixel px py = true := by
  induction k with
  | zero => simp [Canvas.drawColumns, rowBit]
  | succ k ih =>
    have ih := ih (by omega)
    have hp := cv.pixel_drawColumns (k := k) (by omega) x0 y bits (Fin.ofNat 64 (x0 + k)) (Fin.ofNat 32 y)
    have hk0 : rowBit k bits x0 y (Fin.ofNat 64 (x0 + k)) (Fin.ofNat 32 y) = false := by
      have : ((x0 + k) % 64 + 64 - x0 % 64) % 64 = k := by omega
      simp [rowBit, this]
    rw [hk0, Bool.xor_false] at hp
    rw [Canvas.drawColumns_succ]
    cases hb : bits.getLsbD (7 - k)
    · have : ∀ px py, rowBit (k + 1) bits x0 y px py = rowBit k bits x0 y px py := fun px py => by
        rw [rowBit_succ (by omega), hb]; simp
      simpa [this] using ih
    · simp only [if_true, Canvas.toggle, Bool.or_eq_true, hp, ih, or_assoc]
      refine or_congr_right ⟨?_, ?_⟩
      · rintro (⟨px, py, h, h'⟩ | h)
        · refine ⟨px, py, ?_, h'⟩
          rw [rowBit_succ (by omega), h, hb]
          have : ¬(px = Fin.ofNat 64 (x0 + k) ∧ py = Fin.ofNat 32 y) := by
            rintro ⟨rfl, rfl⟩; rw [hk0] at h; exact Bool.false_ne_true h
          simp only [this, decide_false, Bool.and_false, Bool.xor_false]
        · refine ⟨_, _, ?_, h⟩
          rw [rowBit_succ (by omega), hk0, hb]; simp
      · rintro ⟨px, py, h, h'⟩
        rw [rowBit_succ (by omega), hb] at h
        by_cases e : px = Fin.ofNat 64 (x0 + k) ∧ py = Fin.ofNat 32 y
        · obtain ⟨rfl, rfl⟩ := e; exact .inr h'
        · left
          refine ⟨px, py, ?_, h'⟩
          simpa only [e, decide_false, Bool.and_false, Bool.xor_false] using h

theorem Canvas.drawRow_eq (cv : Canvas) (x0 y : Nat) (bits : Byte) :
    cv.drawRow x0 y bits = cv.drawColumns 8 x0 y bits := rfl

/-! ## All rows -/

theorem spriteBit_nil (x0 y : Nat) (px : Fin 64) (py : Fin 32) : spriteBit [] x0 y px py = false := by
  simp [spriteBit]

/-- A sprite's first row, then the others one row lower; no pixel lies under both (at most 32 rows). -/
theorem spriteBit_cons (bits : Byte) (rest : List Byte) (h : rest.length < 32) (x0 y : Nat) (px : Fin 64) (py : Fin 32) :
    spriteBit (bits :: rest) x0 y px py = (rowBit 8 bits x0 y px py ^^ spriteBit rest x0 (y + 1) px py) ∧
      ¬(rowBit 8 bits x0 y px py = true ∧ spriteBit rest x0 (y + 1) px py = true) := by
  simp only [spriteBit, rowBit]
  generalize (px.val + 64 - x0 % 64) % 64 = c
  have hpy := py.isLt
  by_cases e : py.val = y % 32
  · have h0 : (py.val + 32 - y % 32) % 32 = 0 := by omega
    have h1 : (py.val + 32 - (y + 1) % 32) % 32 = 31 := by omega
    have h2 : rest[31]? = none := List.getElem?_eq_none (by omega)
    simp only [h0, h1, h2]
    simp [e]
  · obtain ⟨r, hr⟩ : ∃ r, (py.val + 32 - y % 32) % 32 = r + 1 :=
      ⟨(py.val + 32 - y % 32) % 32 - 1, by omega⟩
    have h1 : (py.val + 32 - (y + 1) % 32) % 32 = r := by omega
    simp only [hr, h1]
    simp [e]

theorem Canvas.pixel_drawRows (x0 : Nat) (cv : Canvas) (y : Nat) (rows : List Byte) (h : rows.length ≤ 32) (px : Fin 64)
    (py : Fin 32) :
    (Canvas.drawRows x0 cv y rows).1.pixel px py = (cv.1.pixel px py ^^ spriteBit rows x0 y px py) := by
  induction rows generalizing cv y with
  | nil => simp [Canvas.drawRows, spriteBit_nil]
  | cons bits rest ih =>
    simp only [List.length_cons] at h
    rw [Canvas.drawRows, ih _ _ (by omega), Canvas.drawRow_eq, Canvas.pixel_drawColumns _ (Nat.le_refl 8),
      (spriteBit_cons bits rest (by omega) x0 y px py).1, Bool.xor_assoc]

theorem Canvas.collision_drawRows (x0 : Nat) (cv : Canvas) (y : Nat) (rows : List Byte) (h : rows.length ≤ 32) :
    (Canvas.drawRows x0 cv y rows).2 = true ↔
      cv.2 = true ∨ ∃ px py, spriteBit rows x0 y px py = true ∧ cv.1.pixel px py = true := by
  induction rows generalizing cv y with
  | nil => simp [Canvas.drawRows, spriteBit_nil]
  | cons bits rest ih =>
    simp only [List.length_cons] at h
    rw [Canvas.drawRows, ih _ _ (by omega), Canvas.drawRow_eq, Canvas.collision_drawColumns _ (Nat.le_refl 8), or_assoc]
    refine or_congr_right ?_
    simp only [Canvas.pixel_drawColumns _ (Nat.le_refl 8)]
    constructor
    · rintro (⟨px, py, a, b⟩ | ⟨px, py, a, b⟩)
      all_goals
        obtain ⟨e, n⟩ := spriteBit_cons bits rest (by omega) x0 y px py
        refine ⟨px, py, ?_, ?_⟩ <;> cases h1 : rowBit 8 bits x0 y px py <;>
          cases h2 : spriteBit rest x0 (y + 1) px py <;> simp_all
    · rintro ⟨px, py, a, b⟩
      obtain ⟨e, n⟩ := spriteBit_cons bits rest (by omega) x0 y px py
      cases h1 : rowBit 8 bits x0 y px py
      · exact .inr ⟨px, py, by simp_all, by simp_all⟩
      · exact .inl ⟨px, py, h1, b⟩

theorem spriteBit_mod (rows : List Byte) (x0 y0 : Nat) (px : Fin 64) (py : Fin 32) :
    spriteBit rows (x0 % 64) (y0 % 32) px py = spriteBit rows x0 y0 px py := by
  simp [spriteBit]

/-- Drawing a sprite XORs every pixel with the sprite's bit over it (R192). -/
theorem Display.pixel_drawSprite (d : Display) (x0 y0 : Nat) (rows : List Byte) (h : rows.length ≤ 32) (px : Fin 64)
    (py : Fin 32) :
    (d.drawSprite x0 y0 rows).1.pixel px py = (d.pixel px py ^^ spriteBit rows x0 y0 px py) := by
  rw [Display.drawSprite, Canvas.pixel_drawRows _ _ _ _ h, spriteBit_mod]

/-- The collision: a pixel under a 1 bit was on (R192). -/
theorem Display.collision_drawSprite (d : Display) (x0 y0 : Nat) (rows : List Byte) (h : rows.length ≤ 32) :
    (d.drawSprite x0 y0 rows).2 = true ↔ ∃ px py, spriteBit rows x0 y0 px py = true ∧ d.pixel px py = true := by
  rw [Display.drawSprite, Canvas.collision_drawRows _ _ _ _ h]
  simp [spriteBit_mod]

end Sys2Proof.Machine
end

