-- ==== Sys2Proof/Laws/Encoding.lean ====
section
/-! SUPPORT. The fields of a word as numbers, the fields of the words the encoder builds, and a word from its fields
(30_encoding.md R91, R92). -/

namespace Sys2Proof

variable (a b c d : Nibble) (hi nn : Byte) (nnn : Addr12) (w : Word)

/-! ## Every field is a slice -/

theorem toNat_nib3 : (nib3 w).toNat = w.toNat / 4096 := by
  have := w.isLt
  simp [nib3, Nat.shiftRight_eq_div_pow]; omega

theorem toNat_nib2 : (nib2 w).toNat = w.toNat / 256 % 16 := by simp [nib2, Nat.shiftRight_eq_div_pow]

theorem toNat_nib1 : (nib1 w).toNat = w.toNat / 16 % 16 := by simp [nib1, Nat.shiftRight_eq_div_pow]

theorem toNat_nib0 : (nib0 w).toNat = w.toNat % 16 := by simp [nib0]

theorem toNat_lowByte : (lowByte w).toNat = w.toNat % 256 := by simp [lowByte]

theorem toNat_highByte : (highByte w).toNat = w.toNat / 256 := by
  have := w.isLt
  simp [highByte, Nat.shiftRight_eq_div_pow]; omega

theorem toNat_low12 : (low12 w).toNat = w.toNat % 4096 := by simp [low12]

/-! ## Words from fields -/

theorem toNat_append_eq {m n : Nat} (p : BitVec m) (q : BitVec n) : (p ++ q).toNat = p.toNat * 2 ^ n + q.toNat := by
  rw [BitVec.toNat_append, ← Nat.shiftLeft_add_eq_or_of_lt q.isLt, Nat.shiftLeft_eq]

theorem toNat_ofNibbles : (ofNibbles a b c d).toNat = ((a.toNat * 16 + b.toNat) * 16 + c.toNat) * 16 + d.toNat := by
  exact (toNat_append_eq (a ++ b ++ c) d).trans (by rw [toNat_append_eq, toNat_append_eq]; norm_num)

theorem toNat_formA : (formA a nnn).toNat = a.toNat * 4096 + nnn.toNat := by
  exact toNat_append_eq a nnn

theorem toNat_formI : (formI a b nn).toNat = (a.toNat * 16 + b.toNat) * 256 + nn.toNat := by
  exact (toNat_append_eq (a ++ b) nn).trans (by rw [toNat_append_eq]; norm_num)

theorem toNat_wordOfBytes : (wordOfBytes hi nn).toNat = hi.toNat * 256 + nn.toNat := by
  exact toNat_append_eq hi nn

/-! ## The fields of built words -/

@[simp] theorem nib3_ofNibbles : nib3 (ofNibbles a b c d) = a := by
  apply BitVec.eq_of_toNat_eq; rw [toNat_nib3, toNat_ofNibbles]; omega

@[simp] theorem nib2_ofNibbles : nib2 (ofNibbles a b c d) = b := by
  apply BitVec.eq_of_toNat_eq; rw [toNat_nib2, toNat_ofNibbles]; omega

@[simp] theorem nib1_ofNibbles : nib1 (ofNibbles a b c d) = c := by
  apply BitVec.eq_of_toNat_eq; rw [toNat_nib1, toNat_ofNibbles]; omega

@[simp] theorem nib0_ofNibbles : nib0 (ofNibbles a b c d) = d := by
  apply BitVec.eq_of_toNat_eq; rw [toNat_nib0, toNat_ofNibbles]; omega

@[simp] theorem nib3_formA : nib3 (formA a nnn) = a := by
  apply BitVec.eq_of_toNat_eq; rw [toNat_nib3, toNat_formA]; omega

@[simp] theorem low12_formA : low12 (formA a nnn) = nnn := by
  apply BitVec.eq_of_toNat_eq; rw [toNat_low12, toNat_formA]; omega

@[simp] theorem nib3_formI : nib3 (formI a b nn) = a := by
  apply BitVec.eq_of_toNat_eq; rw [toNat_nib3, toNat_formI]; omega

@[simp] theorem nib2_formI : nib2 (formI a b nn) = b := by
  apply BitVec.eq_of_toNat_eq; rw [toNat_nib2, toNat_formI]; omega

@[simp] theorem lowByte_formI : lowByte (formI a b nn) = nn := by
  apply BitVec.eq_of_toNat_eq; rw [toNat_lowByte, toNat_formI]; omega

/-! ## A word is the word of its fields -/

theorem ofNibbles_fields : ofNibbles (nib3 w) (nib2 w) (nib1 w) (nib0 w) = w := by
  apply BitVec.eq_of_toNat_eq; rw [toNat_ofNibbles, toNat_nib3, toNat_nib2, toNat_nib1, toNat_nib0]; omega

theorem formA_fields : formA (nib3 w) (low12 w) = w := by
  apply BitVec.eq_of_toNat_eq; rw [toNat_formA, toNat_nib3, toNat_low12]; omega

theorem formI_fields : formI (nib3 w) (nib2 w) (lowByte w) = w := by
  apply BitVec.eq_of_toNat_eq; rw [toNat_formI, toNat_nib3, toNat_nib2, toNat_lowByte]; omega

theorem wordOfBytes_fields : wordOfBytes (highByte w) (lowByte w) = w := by
  apply BitVec.eq_of_toNat_eq; rw [toNat_wordOfBytes, toNat_highByte, toNat_lowByte]; omega

@[simp] theorem highByte_wordOfBytes : highByte (wordOfBytes hi nn) = hi := by
  apply BitVec.eq_of_toNat_eq; rw [toNat_highByte, toNat_wordOfBytes]; omega

@[simp] theorem lowByte_wordOfBytes : lowByte (wordOfBytes hi nn) = nn := by
  apply BitVec.eq_of_toNat_eq; rw [toNat_lowByte, toNat_wordOfBytes]; omega

end Sys2Proof
end

