-- ==== Sys2Proof/Laws/State.lean ====
section
/-! SUPPORT. One lemma per field per update of the state, and per observation (a register, a byte, `SP`, the fetched word,
a key), so that no proof unfolds a record update. -/

namespace Sys2Proof.Machine

variable (s : State)

/-! ## setV -/

@[simp] theorem State.setV_v (x : Nibble) (b : Byte) : (s.setV x b).v = s.v.set x.toNat b x.isLt := rfl
@[simp] theorem State.setV_i (x : Nibble) (b : Byte) : (s.setV x b).i = s.i := rfl
@[simp] theorem State.setV_pc (x : Nibble) (b : Byte) : (s.setV x b).pc = s.pc := rfl
@[simp] theorem State.setV_stack (x : Nibble) (b : Byte) : (s.setV x b).stack = s.stack := rfl
@[simp] theorem State.setV_dt (x : Nibble) (b : Byte) : (s.setV x b).dt = s.dt := rfl
@[simp] theorem State.setV_st (x : Nibble) (b : Byte) : (s.setV x b).st = s.st := rfl
@[simp] theorem State.setV_keys (x : Nibble) (b : Byte) : (s.setV x b).keys = s.keys := rfl
@[simp] theorem State.setV_waiting (x : Nibble) (b : Byte) : (s.setV x b).waiting = s.waiting := rfl
@[simp] theorem State.setV_waitReg (x : Nibble) (b : Byte) : (s.setV x b).waitReg = s.waitReg := rfl
@[simp] theorem State.setV_disp (x : Nibble) (b : Byte) : (s.setV x b).disp = s.disp := rfl
@[simp] theorem State.setV_mem (x : Nibble) (b : Byte) : (s.setV x b).mem = s.mem := rfl
@[simp] theorem State.setV_execState (x : Nibble) (b : Byte) : (s.setV x b).execState = s.execState := rfl
@[simp] theorem State.setV_fault (x : Nibble) (b : Byte) : (s.setV x b).fault = s.fault := rfl
@[simp] theorem State.setV_config (x : Nibble) (b : Byte) : (s.setV x b).config = s.config := rfl
@[simp] theorem State.setV_pending (x : Nibble) (b : Byte) : (s.setV x b).pending = s.pending := rfl
@[simp] theorem State.setV_reply (x : Nibble) (b : Byte) : (s.setV x b).reply = s.reply := rfl
@[simp] theorem State.setV_draws (x : Nibble) (b : Byte) : (s.setV x b).draws = s.draws := rfl
@[simp] theorem State.setV_byteAt (x : Nibble) (b : Byte) (a : Nat) : (s.setV x b).byteAt a = s.byteAt a := rfl
@[simp] theorem State.setV_sp (x : Nibble) (b : Byte) : (s.setV x b).sp = s.sp := rfl
@[simp] theorem State.setV_fetch (x : Nibble) (b : Byte) : (s.setV x b).fetch = s.fetch := rfl
@[simp] theorem State.setV_keyDown (x : Nibble) (b : Byte) (k : Nibble) : (s.setV x b).keyDown k = s.keyDown k := rfl

/-! ## setI -/

@[simp] theorem State.setI_v (w : Word) : (s.setI w).v = s.v := rfl
@[simp] theorem State.setI_i (w : Word) : (s.setI w).i = w := rfl
@[simp] theorem State.setI_pc (w : Word) : (s.setI w).pc = s.pc := rfl
@[simp] theorem State.setI_stack (w : Word) : (s.setI w).stack = s.stack := rfl
@[simp] theorem State.setI_dt (w : Word) : (s.setI w).dt = s.dt := rfl
@[simp] theorem State.setI_st (w : Word) : (s.setI w).st = s.st := rfl
@[simp] theorem State.setI_keys (w : Word) : (s.setI w).keys = s.keys := rfl
@[simp] theorem State.setI_waiting (w : Word) : (s.setI w).waiting = s.waiting := rfl
@[simp] theorem State.setI_waitReg (w : Word) : (s.setI w).waitReg = s.waitReg := rfl
@[simp] theorem State.setI_disp (w : Word) : (s.setI w).disp = s.disp := rfl
@[simp] theorem State.setI_mem (w : Word) : (s.setI w).mem = s.mem := rfl
@[simp] theorem State.setI_execState (w : Word) : (s.setI w).execState = s.execState := rfl
@[simp] theorem State.setI_fault (w : Word) : (s.setI w).fault = s.fault := rfl
@[simp] theorem State.setI_config (w : Word) : (s.setI w).config = s.config := rfl
@[simp] theorem State.setI_pending (w : Word) : (s.setI w).pending = s.pending := rfl
@[simp] theorem State.setI_reply (w : Word) : (s.setI w).reply = s.reply := rfl
@[simp] theorem State.setI_draws (w : Word) : (s.setI w).draws = s.draws := rfl
@[simp] theorem State.setI_getV (w : Word) (r : Nibble) : (s.setI w).getV r = s.getV r := rfl
@[simp] theorem State.setI_byteAt (w : Word) (a : Nat) : (s.setI w).byteAt a = s.byteAt a := rfl
@[simp] theorem State.setI_sp (w : Word) : (s.setI w).sp = s.sp := rfl
@[simp] theorem State.setI_fetch (w : Word) : (s.setI w).fetch = s.fetch := rfl
@[simp] theorem State.setI_keyDown (w : Word) (k : Nibble) : (s.setI w).keyDown k = s.keyDown k := rfl

/-! ## setPc -/

@[simp] theorem State.setPc_v (w : Word) : (s.setPc w).v = s.v := rfl
@[simp] theorem State.setPc_i (w : Word) : (s.setPc w).i = s.i := rfl
@[simp] theorem State.setPc_pc (w : Word) : (s.setPc w).pc = w := rfl
@[simp] theorem State.setPc_stack (w : Word) : (s.setPc w).stack = s.stack := rfl
@[simp] theorem State.setPc_dt (w : Word) : (s.setPc w).dt = s.dt := rfl
@[simp] theorem State.setPc_st (w : Word) : (s.setPc w).st = s.st := rfl
@[simp] theorem State.setPc_keys (w : Word) : (s.setPc w).keys = s.keys := rfl
@[simp] theorem State.setPc_waiting (w : Word) : (s.setPc w).waiting = s.waiting := rfl
@[simp] theorem State.setPc_waitReg (w : Word) : (s.setPc w).waitReg = s.waitReg := rfl
@[simp] theorem State.setPc_disp (w : Word) : (s.setPc w).disp = s.disp := rfl
@[simp] theorem State.setPc_mem (w : Word) : (s.setPc w).mem = s.mem := rfl
@[simp] theorem State.setPc_execState (w : Word) : (s.setPc w).execState = s.execState := rfl
@[simp] theorem State.setPc_fault (w : Word) : (s.setPc w).fault = s.fault := rfl
@[simp] theorem State.setPc_config (w : Word) : (s.setPc w).config = s.config := rfl
@[simp] theorem State.setPc_pending (w : Word) : (s.setPc w).pending = s.pending := rfl
@[simp] theorem State.setPc_reply (w : Word) : (s.setPc w).reply = s.reply := rfl
@[simp] theorem State.setPc_draws (w : Word) : (s.setPc w).draws = s.draws := rfl
@[simp] theorem State.setPc_getV (w : Word) (r : Nibble) : (s.setPc w).getV r = s.getV r := rfl
@[simp] theorem State.setPc_byteAt (w : Word) (a : Nat) : (s.setPc w).byteAt a = s.byteAt a := rfl
@[simp] theorem State.setPc_sp (w : Word) : (s.setPc w).sp = s.sp := rfl
@[simp] theorem State.setPc_keyDown (w : Word) (k : Nibble) : (s.setPc w).keyDown k = s.keyDown k := rfl

/-! ## advance -/

@[simp] theorem State.advance_v : s.advance.v = s.v := rfl
@[simp] theorem State.advance_i : s.advance.i = s.i := rfl
@[simp] theorem State.advance_pc : s.advance.pc = s.pc + 2 := rfl
@[simp] theorem State.advance_stack : s.advance.stack = s.stack := rfl
@[simp] theorem State.advance_dt : s.advance.dt = s.dt := rfl
@[simp] theorem State.advance_st : s.advance.st = s.st := rfl
@[simp] theorem State.advance_keys : s.advance.keys = s.keys := rfl
@[simp] theorem State.advance_waiting : s.advance.waiting = s.waiting := rfl
@[simp] theorem State.advance_waitReg : s.advance.waitReg = s.waitReg := rfl
@[simp] theorem State.advance_disp : s.advance.disp = s.disp := rfl
@[simp] theorem State.advance_mem : s.advance.mem = s.mem := rfl
@[simp] theorem State.advance_execState : s.advance.execState = s.execState := rfl
@[simp] theorem State.advance_fault : s.advance.fault = s.fault := rfl
@[simp] theorem State.advance_config : s.advance.config = s.config := rfl
@[simp] theorem State.advance_pending : s.advance.pending = s.pending := rfl
@[simp] theorem State.advance_reply : s.advance.reply = s.reply := rfl
@[simp] theorem State.advance_draws : s.advance.draws = s.draws := rfl
@[simp] theorem State.advance_getV (r : Nibble) : s.advance.getV r = s.getV r := rfl
@[simp] theorem State.advance_byteAt (a : Nat) : s.advance.byteAt a = s.byteAt a := rfl
@[simp] theorem State.advance_sp : s.advance.sp = s.sp := rfl
@[simp] theorem State.advance_keyDown (k : Nibble) : s.advance.keyDown k = s.keyDown k := rfl

/-! ## skipIf -/

@[simp] theorem State.skipIf_v (c : Bool) : (s.skipIf c).v = s.v := by cases c <;> rfl
@[simp] theorem State.skipIf_i (c : Bool) : (s.skipIf c).i = s.i := by cases c <;> rfl
@[simp] theorem State.skipIf_pc (c : Bool) : (s.skipIf c).pc = if c then s.pc + 4 else s.pc + 2 := by cases c <;> rfl
@[simp] theorem State.skipIf_stack (c : Bool) : (s.skipIf c).stack = s.stack := by cases c <;> rfl
@[simp] theorem State.skipIf_dt (c : Bool) : (s.skipIf c).dt = s.dt := by cases c <;> rfl
@[simp] theorem State.skipIf_st (c : Bool) : (s.skipIf c).st = s.st := by cases c <;> rfl
@[simp] theorem State.skipIf_keys (c : Bool) : (s.skipIf c).keys = s.keys := by cases c <;> rfl
@[simp] theorem State.skipIf_waiting (c : Bool) : (s.skipIf c).waiting = s.waiting := by cases c <;> rfl
@[simp] theorem State.skipIf_waitReg (c : Bool) : (s.skipIf c).waitReg = s.waitReg := by cases c <;> rfl
@[simp] theorem State.skipIf_disp (c : Bool) : (s.skipIf c).disp = s.disp := by cases c <;> rfl
@[simp] theorem State.skipIf_mem (c : Bool) : (s.skipIf c).mem = s.mem := by cases c <;> rfl
@[simp] theorem State.skipIf_execState (c : Bool) : (s.skipIf c).execState = s.execState := by cases c <;> rfl
@[simp] theorem State.skipIf_fault (c : Bool) : (s.skipIf c).fault = s.fault := by cases c <;> rfl
@[simp] theorem State.skipIf_config (c : Bool) : (s.skipIf c).config = s.config := by cases c <;> rfl
@[simp] theorem State.skipIf_pending (c : Bool) : (s.skipIf c).pending = s.pending := by cases c <;> rfl
@[simp] theorem State.skipIf_reply (c : Bool) : (s.skipIf c).reply = s.reply := by cases c <;> rfl
@[simp] theorem State.skipIf_draws (c : Bool) : (s.skipIf c).draws = s.draws := by cases c <;> rfl
@[simp] theorem State.skipIf_getV (c : Bool) (r : Nibble) : (s.skipIf c).getV r = s.getV r := by cases c <;> rfl
@[simp] theorem State.skipIf_byteAt (c : Bool) (a : Nat) : (s.skipIf c).byteAt a = s.byteAt a := by cases c <;> rfl
@[simp] theorem State.skipIf_sp (c : Bool) : (s.skipIf c).sp = s.sp := by cases c <;> rfl
@[simp] theorem State.skipIf_keyDown (c : Bool) (k : Nibble) : (s.skipIf c).keyDown k = s.keyDown k := by cases c <;> rfl

/-! ## loadV -/

@[simp] theorem State.loadV_i (bs : List Byte) : (s.loadV bs).i = s.i := rfl
@[simp] theorem State.loadV_pc (bs : List Byte) : (s.loadV bs).pc = s.pc := rfl
@[simp] theorem State.loadV_stack (bs : List Byte) : (s.loadV bs).stack = s.stack := rfl
@[simp] theorem State.loadV_dt (bs : List Byte) : (s.loadV bs).dt = s.dt := rfl
@[simp] theorem State.loadV_st (bs : List Byte) : (s.loadV bs).st = s.st := rfl
@[simp] theorem State.loadV_keys (bs : List Byte) : (s.loadV bs).keys = s.keys := rfl
@[simp] theorem State.loadV_waiting (bs : List Byte) : (s.loadV bs).waiting = s.waiting := rfl
@[simp] theorem State.loadV_waitReg (bs : List Byte) : (s.loadV bs).waitReg = s.waitReg := rfl
@[simp] theorem State.loadV_disp (bs : List Byte) : (s.loadV bs).disp = s.disp := rfl
@[simp] theorem State.loadV_mem (bs : List Byte) : (s.loadV bs).mem = s.mem := rfl
@[simp] theorem State.loadV_execState (bs : List Byte) : (s.loadV bs).execState = s.execState := rfl
@[simp] theorem State.loadV_fault (bs : List Byte) : (s.loadV bs).fault = s.fault := rfl
@[simp] theorem State.loadV_config (bs : List Byte) : (s.loadV bs).config = s.config := rfl
@[simp] theorem State.loadV_pending (bs : List Byte) : (s.loadV bs).pending = s.pending := rfl
@[simp] theorem State.loadV_reply (bs : List Byte) : (s.loadV bs).reply = s.reply := rfl
@[simp] theorem State.loadV_draws (bs : List Byte) : (s.loadV bs).draws = s.draws := rfl
@[simp] theorem State.loadV_byteAt (bs : List Byte) (a : Nat) : (s.loadV bs).byteAt a = s.byteAt a := rfl
@[simp] theorem State.loadV_sp (bs : List Byte) : (s.loadV bs).sp = s.sp := rfl
@[simp] theorem State.loadV_fetch (bs : List Byte) : (s.loadV bs).fetch = s.fetch := rfl
@[simp] theorem State.loadV_keyDown (bs : List Byte) (k : Nibble) : (s.loadV bs).keyDown k = s.keyDown k := rfl

/-! ## setFlag -/

@[simp] theorem State.setFlag_i (f : Bool) : (s.setFlag f).i = s.i := rfl
@[simp] theorem State.setFlag_pc (f : Bool) : (s.setFlag f).pc = s.pc := rfl
@[simp] theorem State.setFlag_stack (f : Bool) : (s.setFlag f).stack = s.stack := rfl
@[simp] theorem State.setFlag_dt (f : Bool) : (s.setFlag f).dt = s.dt := rfl
@[simp] theorem State.setFlag_st (f : Bool) : (s.setFlag f).st = s.st := rfl
@[simp] theorem State.setFlag_keys (f : Bool) : (s.setFlag f).keys = s.keys := rfl
@[simp] theorem State.setFlag_waiting (f : Bool) : (s.setFlag f).waiting = s.waiting := rfl
@[simp] theorem State.setFlag_waitReg (f : Bool) : (s.setFlag f).waitReg = s.waitReg := rfl
@[simp] theorem State.setFlag_disp (f : Bool) : (s.setFlag f).disp = s.disp := rfl
@[simp] theorem State.setFlag_mem (f : Bool) : (s.setFlag f).mem = s.mem := rfl
@[simp] theorem State.setFlag_execState (f : Bool) : (s.setFlag f).execState = s.execState := rfl
@[simp] theorem State.setFlag_fault (f : Bool) : (s.setFlag f).fault = s.fault := rfl
@[simp] theorem State.setFlag_config (f : Bool) : (s.setFlag f).config = s.config := rfl
@[simp] theorem State.setFlag_pending (f : Bool) : (s.setFlag f).pending = s.pending := rfl
@[simp] theorem State.setFlag_reply (f : Bool) : (s.setFlag f).reply = s.reply := rfl
@[simp] theorem State.setFlag_draws (f : Bool) : (s.setFlag f).draws = s.draws := rfl
@[simp] theorem State.setFlag_byteAt (f : Bool) (a : Nat) : (s.setFlag f).byteAt a = s.byteAt a := rfl
@[simp] theorem State.setFlag_sp (f : Bool) : (s.setFlag f).sp = s.sp := rfl
@[simp] theorem State.setFlag_fetch (f : Bool) : (s.setFlag f).fetch = s.fetch := rfl
@[simp] theorem State.setFlag_keyDown (f : Bool) (k : Nibble) : (s.setFlag f).keyDown k = s.keyDown k := rfl

/-! ## writeWithFlag -/

@[simp] theorem State.writeWithFlag_i (x : Nibble) (b : Byte) (f : Bool) : (s.writeWithFlag x b f).i = s.i := rfl
@[simp] theorem State.writeWithFlag_pc (x : Nibble) (b : Byte) (f : Bool) : (s.writeWithFlag x b f).pc = s.pc + 2 := rfl
@[simp] theorem State.writeWithFlag_stack (x : Nibble) (b : Byte) (f : Bool) : (s.writeWithFlag x b f).stack = s.stack := rfl
@[simp] theorem State.writeWithFlag_dt (x : Nibble) (b : Byte) (f : Bool) : (s.writeWithFlag x b f).dt = s.dt := rfl
@[simp] theorem State.writeWithFlag_st (x : Nibble) (b : Byte) (f : Bool) : (s.writeWithFlag x b f).st = s.st := rfl
@[simp] theorem State.writeWithFlag_keys (x : Nibble) (b : Byte) (f : Bool) : (s.writeWithFlag x b f).keys = s.keys := rfl
@[simp] theorem State.writeWithFlag_waiting (x : Nibble) (b : Byte) (f : Bool) : (s.writeWithFlag x b f).waiting = s.waiting := rfl
@[simp] theorem State.writeWithFlag_waitReg (x : Nibble) (b : Byte) (f : Bool) : (s.writeWithFlag x b f).waitReg = s.waitReg := rfl
@[simp] theorem State.writeWithFlag_disp (x : Nibble) (b : Byte) (f : Bool) : (s.writeWithFlag x b f).disp = s.disp := rfl
@[simp] theorem State.writeWithFlag_mem (x : Nibble) (b : Byte) (f : Bool) : (s.writeWithFlag x b f).mem = s.mem := rfl
@[simp] theorem State.writeWithFlag_execState (x : Nibble) (b : Byte) (f : Bool) : (s.writeWithFlag x b f).execState = s.execState := rfl
@[simp] theorem State.writeWithFlag_fault (x : Nibble) (b : Byte) (f : Bool) : (s.writeWithFlag x b f).fault = s.fault := rfl
@[simp] theorem State.writeWithFlag_config (x : Nibble) (b : Byte) (f : Bool) : (s.writeWithFlag x b f).config = s.config := rfl
@[simp] theorem State.writeWithFlag_pending (x : Nibble) (b : Byte) (f : Bool) : (s.writeWithFlag x b f).pending = s.pending := rfl
@[simp] theorem State.writeWithFlag_reply (x : Nibble) (b : Byte) (f : Bool) : (s.writeWithFlag x b f).reply = s.reply := rfl
@[simp] theorem State.writeWithFlag_draws (x : Nibble) (b : Byte) (f : Bool) : (s.writeWithFlag x b f).draws = s.draws := rfl
@[simp] theorem State.writeWithFlag_byteAt (x : Nibble) (b : Byte) (f : Bool) (a : Nat) : (s.writeWithFlag x b f).byteAt a = s.byteAt a := rfl
@[simp] theorem State.writeWithFlag_sp (x : Nibble) (b : Byte) (f : Bool) : (s.writeWithFlag x b f).sp = s.sp := rfl
@[simp] theorem State.writeWithFlag_keyDown (x : Nibble) (b : Byte) (f : Bool) (k : Nibble) : (s.writeWithFlag x b f).keyDown k = s.keyDown k := rfl

/-! ## writeLogic -/

@[simp] theorem State.writeLogic_i (x : Nibble) (b : Byte) : (s.writeLogic x b).i = s.i := by unfold State.writeLogic; split <;> rfl
@[simp] theorem State.writeLogic_pc (x : Nibble) (b : Byte) : (s.writeLogic x b).pc = s.pc + 2 := by unfold State.writeLogic; split <;> rfl
@[simp] theorem State.writeLogic_stack (x : Nibble) (b : Byte) : (s.writeLogic x b).stack = s.stack := by unfold State.writeLogic; split <;> rfl
@[simp] theorem State.writeLogic_dt (x : Nibble) (b : Byte) : (s.writeLogic x b).dt = s.dt := by unfold State.writeLogic; split <;> rfl
@[simp] theorem State.writeLogic_st (x : Nibble) (b : Byte) : (s.writeLogic x b).st = s.st := by unfold State.writeLogic; split <;> rfl
@[simp] theorem State.writeLogic_keys (x : Nibble) (b : Byte) : (s.writeLogic x b).keys = s.keys := by unfold State.writeLogic; split <;> rfl
@[simp] theorem State.writeLogic_waiting (x : Nibble) (b : Byte) : (s.writeLogic x b).waiting = s.waiting := by unfold State.writeLogic; split <;> rfl
@[simp] theorem State.writeLogic_waitReg (x : Nibble) (b : Byte) : (s.writeLogic x b).waitReg = s.waitReg := by unfold State.writeLogic; split <;> rfl
@[simp] theorem State.writeLogic_disp (x : Nibble) (b : Byte) : (s.writeLogic x b).disp = s.disp := by unfold State.writeLogic; split <;> rfl
@[simp] theorem State.writeLogic_mem (x : Nibble) (b : Byte) : (s.writeLogic x b).mem = s.mem := by unfold State.writeLogic; split <;> rfl
@[simp] theorem State.writeLogic_execState (x : Nibble) (b : Byte) : (s.writeLogic x b).execState = s.execState := by unfold State.writeLogic; split <;> rfl
@[simp] theorem State.writeLogic_fault (x : Nibble) (b : Byte) : (s.writeLogic x b).fault = s.fault := by unfold State.writeLogic; split <;> rfl
@[simp] theorem State.writeLogic_config (x : Nibble) (b : Byte) : (s.writeLogic x b).config = s.config := by unfold State.writeLogic; split <;> rfl
@[simp] theorem State.writeLogic_pending (x : Nibble) (b : Byte) : (s.writeLogic x b).pending = s.pending := by unfold State.writeLogic; split <;> rfl
@[simp] theorem State.writeLogic_reply (x : Nibble) (b : Byte) : (s.writeLogic x b).reply = s.reply := by unfold State.writeLogic; split <;> rfl
@[simp] theorem State.writeLogic_draws (x : Nibble) (b : Byte) : (s.writeLogic x b).draws = s.draws := by unfold State.writeLogic; split <;> rfl
@[simp] theorem State.writeLogic_byteAt (x : Nibble) (b : Byte) (a : Nat) : (s.writeLogic x b).byteAt a = s.byteAt a := by unfold State.writeLogic; split <;> rfl
@[simp] theorem State.writeLogic_sp (x : Nibble) (b : Byte) : (s.writeLogic x b).sp = s.sp := by unfold State.writeLogic; split <;> rfl
@[simp] theorem State.writeLogic_keyDown (x : Nibble) (b : Byte) (k : Nibble) : (s.writeLogic x b).keyDown k = s.keyDown k := by unfold State.writeLogic; split <;> rfl

/-! ## bumpI -/

@[simp] theorem State.bumpI_v (x : Nibble) : (s.bumpI x).v = s.v := by unfold State.bumpI; split <;> rfl
@[simp] theorem State.bumpI_i (x : Nibble) : (s.bumpI x).i = if s.config.loadStoreIncI then s.i + BitVec.ofNat 16 (x.toNat + 1) else s.i := by unfold State.bumpI; split <;> rfl
@[simp] theorem State.bumpI_pc (x : Nibble) : (s.bumpI x).pc = s.pc := by unfold State.bumpI; split <;> rfl
@[simp] theorem State.bumpI_stack (x : Nibble) : (s.bumpI x).stack = s.stack := by unfold State.bumpI; split <;> rfl
@[simp] theorem State.bumpI_dt (x : Nibble) : (s.bumpI x).dt = s.dt := by unfold State.bumpI; split <;> rfl
@[simp] theorem State.bumpI_st (x : Nibble) : (s.bumpI x).st = s.st := by unfold State.bumpI; split <;> rfl
@[simp] theorem State.bumpI_keys (x : Nibble) : (s.bumpI x).keys = s.keys := by unfold State.bumpI; split <;> rfl
@[simp] theorem State.bumpI_waiting (x : Nibble) : (s.bumpI x).waiting = s.waiting := by unfold State.bumpI; split <;> rfl
@[simp] theorem State.bumpI_waitReg (x : Nibble) : (s.bumpI x).waitReg = s.waitReg := by unfold State.bumpI; split <;> rfl
@[simp] theorem State.bumpI_disp (x : Nibble) : (s.bumpI x).disp = s.disp := by unfold State.bumpI; split <;> rfl
@[simp] theorem State.bumpI_mem (x : Nibble) : (s.bumpI x).mem = s.mem := by unfold State.bumpI; split <;> rfl
@[simp] theorem State.bumpI_execState (x : Nibble) : (s.bumpI x).execState = s.execState := by unfold State.bumpI; split <;> rfl
@[simp] theorem State.bumpI_fault (x : Nibble) : (s.bumpI x).fault = s.fault := by unfold State.bumpI; split <;> rfl
@[simp] theorem State.bumpI_config (x : Nibble) : (s.bumpI x).config = s.config := by unfold State.bumpI; split <;> rfl
@[simp] theorem State.bumpI_pending (x : Nibble) : (s.bumpI x).pending = s.pending := by unfold State.bumpI; split <;> rfl
@[simp] theorem State.bumpI_reply (x : Nibble) : (s.bumpI x).reply = s.reply := by unfold State.bumpI; split <;> rfl
@[simp] theorem State.bumpI_draws (x : Nibble) : (s.bumpI x).draws = s.draws := by unfold State.bumpI; split <;> rfl
@[simp] theorem State.bumpI_getV (x : Nibble) (r : Nibble) : (s.bumpI x).getV r = s.getV r := by unfold State.bumpI; split <;> rfl
@[simp] theorem State.bumpI_byteAt (x : Nibble) (a : Nat) : (s.bumpI x).byteAt a = s.byteAt a := by unfold State.bumpI; split <;> rfl
@[simp] theorem State.bumpI_sp (x : Nibble) : (s.bumpI x).sp = s.sp := by unfold State.bumpI; split <;> rfl
@[simp] theorem State.bumpI_fetch (x : Nibble) : (s.bumpI x).fetch = s.fetch := by unfold State.bumpI; split <;> rfl
@[simp] theorem State.bumpI_keyDown (x : Nibble) (k : Nibble) : (s.bumpI x).keyDown k = s.keyDown k := by unfold State.bumpI; split <;> rfl

/-! ## raise -/

@[simp] theorem State.raise_v (k : FaultKind) (op : Option Word) : (s.raise k op).v = s.v := rfl
@[simp] theorem State.raise_i (k : FaultKind) (op : Option Word) : (s.raise k op).i = s.i := rfl
@[simp] theorem State.raise_pc (k : FaultKind) (op : Option Word) : (s.raise k op).pc = s.pc := rfl
@[simp] theorem State.raise_stack (k : FaultKind) (op : Option Word) : (s.raise k op).stack = s.stack := rfl
@[simp] theorem State.raise_dt (k : FaultKind) (op : Option Word) : (s.raise k op).dt = s.dt := rfl
@[simp] theorem State.raise_st (k : FaultKind) (op : Option Word) : (s.raise k op).st = s.st := rfl
@[simp] theorem State.raise_keys (k : FaultKind) (op : Option Word) : (s.raise k op).keys = s.keys := rfl
@[simp] theorem State.raise_waiting (k : FaultKind) (op : Option Word) : (s.raise k op).waiting = s.waiting := rfl
@[simp] theorem State.raise_waitReg (k : FaultKind) (op : Option Word) : (s.raise k op).waitReg = s.waitReg := rfl
@[simp] theorem State.raise_disp (k : FaultKind) (op : Option Word) : (s.raise k op).disp = s.disp := rfl
@[simp] theorem State.raise_mem (k : FaultKind) (op : Option Word) : (s.raise k op).mem = s.mem := rfl
@[simp] theorem State.raise_execState (k : FaultKind) (op : Option Word) : (s.raise k op).execState = .halted := rfl
@[simp] theorem State.raise_fault (k : FaultKind) (op : Option Word) : (s.raise k op).fault = some ⟨k, s.pc, op⟩ := rfl
@[simp] theorem State.raise_config (k : FaultKind) (op : Option Word) : (s.raise k op).config = s.config := rfl
@[simp] theorem State.raise_pending (k : FaultKind) (op : Option Word) : (s.raise k op).pending = s.pending := rfl
@[simp] theorem State.raise_reply (k : FaultKind) (op : Option Word) : (s.raise k op).reply = s.reply := rfl
@[simp] theorem State.raise_draws (k : FaultKind) (op : Option Word) : (s.raise k op).draws = s.draws := rfl
@[simp] theorem State.raise_getV (k : FaultKind) (op : Option Word) (r : Nibble) : (s.raise k op).getV r = s.getV r := rfl
@[simp] theorem State.raise_byteAt (k : FaultKind) (op : Option Word) (a : Nat) : (s.raise k op).byteAt a = s.byteAt a := rfl
@[simp] theorem State.raise_sp (k : FaultKind) (op : Option Word) : (s.raise k op).sp = s.sp := rfl
@[simp] theorem State.raise_fetch (k : FaultKind) (op : Option Word) : (s.raise k op).fetch = s.fetch := rfl
@[simp] theorem State.raise_keyDown (k : FaultKind) (op : Option Word) (q : Nibble) : (s.raise k op).keyDown q = s.keyDown q := rfl

/-! ## raiseAt -/

@[simp] theorem State.raiseAt_v (k : FaultKind) (j : Instr) : (s.raiseAt k j).v = s.v := rfl
@[simp] theorem State.raiseAt_i (k : FaultKind) (j : Instr) : (s.raiseAt k j).i = s.i := rfl
@[simp] theorem State.raiseAt_pc (k : FaultKind) (j : Instr) : (s.raiseAt k j).pc = s.pc := rfl
@[simp] theorem State.raiseAt_stack (k : FaultKind) (j : Instr) : (s.raiseAt k j).stack = s.stack := rfl
@[simp] theorem State.raiseAt_dt (k : FaultKind) (j : Instr) : (s.raiseAt k j).dt = s.dt := rfl
@[simp] theorem State.raiseAt_st (k : FaultKind) (j : Instr) : (s.raiseAt k j).st = s.st := rfl
@[simp] theorem State.raiseAt_keys (k : FaultKind) (j : Instr) : (s.raiseAt k j).keys = s.keys := rfl
@[simp] theorem State.raiseAt_waiting (k : FaultKind) (j : Instr) : (s.raiseAt k j).waiting = s.waiting := rfl
@[simp] theorem State.raiseAt_waitReg (k : FaultKind) (j : Instr) : (s.raiseAt k j).waitReg = s.waitReg := rfl
@[simp] theorem State.raiseAt_disp (k : FaultKind) (j : Instr) : (s.raiseAt k j).disp = s.disp := rfl
@[simp] theorem State.raiseAt_mem (k : FaultKind) (j : Instr) : (s.raiseAt k j).mem = s.mem := rfl
@[simp] theorem State.raiseAt_execState (k : FaultKind) (j : Instr) : (s.raiseAt k j).execState = .halted := rfl
@[simp] theorem State.raiseAt_fault (k : FaultKind) (j : Instr) : (s.raiseAt k j).fault = some ⟨k, s.pc, some (encode j)⟩ := rfl
@[simp] theorem State.raiseAt_config (k : FaultKind) (j : Instr) : (s.raiseAt k j).config = s.config := rfl
@[simp] theorem State.raiseAt_pending (k : FaultKind) (j : Instr) : (s.raiseAt k j).pending = s.pending := rfl
@[simp] theorem State.raiseAt_reply (k : FaultKind) (j : Instr) : (s.raiseAt k j).reply = s.reply := rfl
@[simp] theorem State.raiseAt_draws (k : FaultKind) (j : Instr) : (s.raiseAt k j).draws = s.draws := rfl
@[simp] theorem State.raiseAt_getV (k : FaultKind) (j : Instr) (r : Nibble) : (s.raiseAt k j).getV r = s.getV r := rfl
@[simp] theorem State.raiseAt_byteAt (k : FaultKind) (j : Instr) (a : Nat) : (s.raiseAt k j).byteAt a = s.byteAt a := rfl
@[simp] theorem State.raiseAt_sp (k : FaultKind) (j : Instr) : (s.raiseAt k j).sp = s.sp := rfl
@[simp] theorem State.raiseAt_fetch (k : FaultKind) (j : Instr) : (s.raiseAt k j).fetch = s.fetch := rfl
@[simp] theorem State.raiseAt_keyDown (k : FaultKind) (j : Instr) (q : Nibble) : (s.raiseAt k j).keyDown q = s.keyDown q := rfl

/-! ## answer -/

@[simp] theorem State.answer_v (r : Reply) : (s.answer r).v = s.v := rfl
@[simp] theorem State.answer_i (r : Reply) : (s.answer r).i = s.i := rfl
@[simp] theorem State.answer_pc (r : Reply) : (s.answer r).pc = s.pc := rfl
@[simp] theorem State.answer_stack (r : Reply) : (s.answer r).stack = s.stack := rfl
@[simp] theorem State.answer_dt (r : Reply) : (s.answer r).dt = s.dt := rfl
@[simp] theorem State.answer_st (r : Reply) : (s.answer r).st = s.st := rfl
@[simp] theorem State.answer_keys (r : Reply) : (s.answer r).keys = s.keys := rfl
@[simp] theorem State.answer_waiting (r : Reply) : (s.answer r).waiting = s.waiting := rfl
@[simp] theorem State.answer_waitReg (r : Reply) : (s.answer r).waitReg = s.waitReg := rfl
@[simp] theorem State.answer_disp (r : Reply) : (s.answer r).disp = s.disp := rfl
@[simp] theorem State.answer_mem (r : Reply) : (s.answer r).mem = s.mem := rfl
@[simp] theorem State.answer_execState (r : Reply) : (s.answer r).execState = s.execState := rfl
@[simp] theorem State.answer_fault (r : Reply) : (s.answer r).fault = s.fault := rfl
@[simp] theorem State.answer_config (r : Reply) : (s.answer r).config = s.config := rfl
@[simp] theorem State.answer_pending (r : Reply) : (s.answer r).pending = s.pending := rfl
@[simp] theorem State.answer_reply (r : Reply) : (s.answer r).reply = r := rfl
@[simp] theorem State.answer_draws (r : Reply) : (s.answer r).draws = s.draws := rfl
@[simp] theorem State.answer_getV (r : Reply) (x : Nibble) : (s.answer r).getV x = s.getV x := rfl
@[simp] theorem State.answer_byteAt (r : Reply) (a : Nat) : (s.answer r).byteAt a = s.byteAt a := rfl
@[simp] theorem State.answer_sp (r : Reply) : (s.answer r).sp = s.sp := rfl
@[simp] theorem State.answer_fetch (r : Reply) : (s.answer r).fetch = s.fetch := rfl
@[simp] theorem State.answer_keyDown (r : Reply) (k : Nibble) : (s.answer r).keyDown k = s.keyDown k := rfl

end Sys2Proof.Machine
end

