-- ==== Sys2Proof/Laws/Memory.lean ====
section
/-! SUPPORT. Memory: a read after a write, the canonical form every operation keeps, and what a read or write of several
bytes does (20_memory.md R64, R65, R70). -/

namespace Sys2Proof.Machine

variable (c : Config)

/-- The cells' addresses strictly rise. -/
abbrev Memory.Rising (m : Memory) : Prop := m.Pairwise fun p q => p.1 < q.1

theorem Memory.read_of_lt {m : Memory} {a : Nat} (h : ∀ p ∈ m, a < p.1) :
    Memory.read c m a = Memory.unlisted c a := by
  induction m with
  | nil => rfl
  | cons p rest ih =>
    have hp := h p (by simp)
    simp only [Memory.read]
    rw [if_neg (by omega), ih fun q hq => h q (by simp [hq])]

theorem Memory.read_put (m : Memory) (a b : Nat) (y : Byte) :
    Memory.read c (Memory.put m a y) b = if b = a then y else Memory.read c m b := by
  induction m with
  | nil => simp [Memory.put, Memory.read]
  | cons p rest ih =>
    obtain ⟨d, x⟩ := p
    simp only [Memory.put]
    split
    · simp [Memory.read]
    · split
      · subst_vars
        simp only [Memory.read]
        split <;> rfl
      · simp only [Memory.read, ih]
        by_cases hb : b = d
        · subst hb; rw [if_pos rfl, if_pos rfl, if_neg (by omega)]
        · rw [if_neg hb, if_neg hb]

theorem Memory.read_erase {m : Memory} (hm : m.Rising) (a b : Nat) :
    Memory.read c (Memory.erase m a) b = if b = a then Memory.unlisted c a else Memory.read c m b := by
  induction m with
  | nil => simp only [Memory.erase, Memory.read]; split <;> simp_all
  | cons p rest ih =>
    obtain ⟨d, x⟩ := p
    obtain ⟨h₁, h₂⟩ := List.pairwise_cons.1 hm
    simp only [Memory.erase]
    split
    · rename_i hd
      subst hd
      by_cases hb : b = a
      · subst hb
        simp [Memory.read_of_lt c h₁]
      · simp [Memory.read, hb]
    · simp only [Memory.read, ih h₂]
      by_cases hb : b = d
      · subst hb; rw [if_pos rfl, if_pos rfl, if_neg (by omega)]
      · rw [if_neg hb, if_neg hb]

/-- One byte written, every other address reads as before (R65, R70). -/
theorem Memory.read_write {m : Memory} (hm : m.Rising) (a b : Nat) (y : Byte) :
    Memory.read c (Memory.write c m a y) b = if b = a then y else Memory.read c m b := by
  unfold Memory.write
  split
  · rename_i h; rw [Memory.read_erase c hm, h]
  · exact Memory.read_put c m a b y

theorem Memory.mem_erase_subset {m : Memory} {a : Nat} {p : Host.Cell} (h : p ∈ Memory.erase m a) : p ∈ m := by
  induction m with
  | nil => exact h
  | cons q rest ih =>
    simp only [Memory.erase] at h
    split at h
    · exact List.mem_cons_of_mem _ h
    · rcases List.mem_cons.1 h with rfl | h
      · simp
      · exact List.mem_cons_of_mem _ (ih h)

theorem Memory.mem_put {m : Memory} {a : Nat} {y : Byte} {p : Host.Cell} (h : p ∈ Memory.put m a y) :
    p = (a, y) ∨ p ∈ m := by
  induction m with
  | nil => simpa [Memory.put] using h
  | cons q rest ih =>
    simp only [Memory.put] at h
    split at h
    · simpa using h
    · split at h
      · rcases List.mem_cons.1 h with rfl | h
        · simp
        · simp [h]
      · rcases List.mem_cons.1 h with rfl | h
        · simp
        · rcases ih h with rfl | h
          · simp
          · simp [h]

theorem Memory.rising_erase {m : Memory} (hm : m.Rising) (a : Nat) : (Memory.erase m a).Rising := by
  induction m with
  | nil => exact hm
  | cons q rest ih =>
    obtain ⟨h₁, h₂⟩ := List.pairwise_cons.1 hm
    simp only [Memory.erase]
    split
    · exact h₂
    · exact List.pairwise_cons.2 ⟨fun p hp => h₁ p (Memory.mem_erase_subset hp), ih h₂⟩

theorem Memory.rising_put {m : Memory} (hm : m.Rising) (a : Nat) (y : Byte) : (Memory.put m a y).Rising := by
  induction m with
  | nil => simp [Memory.put]
  | cons q rest ih =>
    obtain ⟨h₁, h₂⟩ := List.pairwise_cons.1 hm
    simp only [Memory.put]
    split
    · rename_i hlt
      refine List.pairwise_cons.2 ⟨fun p hp => ?_, hm⟩
      rcases List.mem_cons.1 hp with rfl | hp
      · exact hlt
      · exact Nat.lt_trans hlt (h₁ p hp)
    · split
      · rename_i heq
        exact List.pairwise_cons.2 ⟨fun p hp => by have := h₁ p hp; simp only at this ⊢; omega, h₂⟩
      · refine List.pairwise_cons.2 ⟨fun p hp => ?_, ih h₂⟩
        rcases Memory.mem_put hp with rfl | hp
        · simp only; omega
        · exact h₁ p hp

theorem Memory.rising_write {m : Memory} (hm : m.Rising) (a : Nat) (y : Byte) : (Memory.write c m a y).Rising := by
  unfold Memory.write
  split
  · exact Memory.rising_erase hm a
  · exact Memory.rising_put hm a y

theorem Memory.not_mem_erase {m : Memory} (hm : m.Rising) {a : Nat} {p : Host.Cell} (h : p ∈ Memory.erase m a) :
    p.1 ≠ a := by
  induction m with
  | nil => simp [Memory.erase] at h
  | cons q rest ih =>
    obtain ⟨h₁, h₂⟩ := List.pairwise_cons.1 hm
    simp only [Memory.erase] at h
    split at h
    · rename_i heq
      have := h₁ p h
      omega
    · rcases List.mem_cons.1 h with rfl | h
      · omega
      · exact ih h₂ h

/-- A write inside memory keeps the canonical form. -/
theorem Memory.wf_write {m : Memory} (hm : Memory.wf c m) {a : Nat} (ha : a < memSize) (y : Byte) :
    Memory.wf c (Memory.write c m a y) := by
  refine ⟨Memory.rising_write c hm.1 a y, fun p hp => ?_⟩
  unfold Memory.write at hp
  split at hp
  · exact hm.2 p (Memory.mem_erase_subset hp)
  · rename_i hy
    rcases Memory.mem_put hp with rfl | hp
    · exact ⟨ha, hy⟩
    · exact hm.2 p hp

theorem Memory.rising_writeBytes {m : Memory} (hm : m.Rising) (a : Nat) (ys : List Byte) :
    (Memory.writeBytes c m a ys).Rising := by
  induction ys generalizing m a with
  | nil => exact hm
  | cons y ys ih => exact ih (Memory.rising_write c hm a y) (a + 1)

/-- A write of several bytes inside memory keeps the canonical form. -/
theorem Memory.wf_writeBytes {m : Memory} (hm : Memory.wf c m) {a : Nat} {ys : List Byte}
    (h : a + ys.length ≤ memSize) : Memory.wf c (Memory.writeBytes c m a ys) := by
  induction ys generalizing m a with
  | nil => exact hm
  | cons y ys ih =>
    simp only [List.length_cons] at h
    exact ih (Memory.wf_write c hm (by omega) y) (by omega)

/-- What memory reads as after several bytes were written: the byte of that place, or what was there (R65). -/
theorem Memory.read_writeBytes {m : Memory} (hm : m.Rising) (a b : Nat) (ys : List Byte) :
    Memory.read c (Memory.writeBytes c m a ys) b =
      if a ≤ b then ys[b - a]?.getD (Memory.read c m b) else Memory.read c m b := by
  induction ys generalizing m a with
  | nil => simp [Memory.writeBytes]
  | cons y ys ih =>
    simp only [Memory.writeBytes]
    rw [ih (Memory.rising_write c hm a y), Memory.read_write c hm]
    rcases Nat.lt_trichotomy b a with h | h | h
    · rw [if_neg (by omega), if_neg (by omega), if_neg (by omega)]
    · subst h; simp
    · have e : b - a = b - (a + 1) + 1 := by omega
      rw [if_pos (show a + 1 ≤ b by omega), if_pos (show a ≤ b by omega), if_neg (show ¬b = a by omega), e,
        List.getElem?_cons_succ]

@[simp] theorem Memory.length_readBytes (m : Memory) (a n : Nat) : (Memory.readBytes c m a n).length = n := by
  simp [Memory.readBytes]

theorem Memory.getElem?_readBytes (m : Memory) (a n k : Nat) :
    (Memory.readBytes c m a n)[k]? = if k < n then some (Memory.read c m (a + k)) else none := by
  by_cases h : k < n <;> simp [Memory.readBytes, h]

theorem Memory.wf_nil : Memory.wf c [] := by simp [Memory.wf]

theorem inBounds_iff (addr : Word) (n : Nat) : inBounds addr n = true ↔ n = 0 ∨ addr.toNat + n ≤ memSize := by
  simp [inBounds, memSize]

/-- `MemRead` answers the bytes, or is out of bounds (R64). -/
theorem State.memRead_eq_some (s : State) (addr : Word) (n : Nat) (bs : List Byte) :
    s.memRead addr n = some bs ↔
      (n = 0 ∨ addr.toNat + n ≤ memSize) ∧ bs = Memory.readBytes s.config s.mem addr.toNat n := by
  rw [← inBounds_iff, State.memRead]
  by_cases h : inBounds addr n = true <;> simp [h, eq_comm]

theorem State.memRead_eq_none (s : State) (addr : Word) (n : Nat) :
    s.memRead addr n = none ↔ n ≠ 0 ∧ memSize < addr.toNat + n := by
  have h := (inBounds_iff addr n).not
  have e : s.memRead addr n = none ↔ ¬inBounds addr n = true := by
    rw [State.memRead]; split <;> simp_all
  rw [e, h]; omega

/-- `MemWrite` changes memory alone, or is out of bounds (R65). -/
theorem State.memWrite_eq_some (s t : State) (addr : Word) (bs : List Byte) :
    s.memWrite addr bs = some t ↔
      (bs.length = 0 ∨ addr.toNat + bs.length ≤ memSize) ∧
        t = { s with mem := Memory.writeBytes s.config s.mem addr.toNat bs } := by
  rw [← inBounds_iff, State.memWrite]
  by_cases h : inBounds addr bs.length = true <;> simp [h, eq_comm]

theorem State.memWrite_eq_none (s : State) (addr : Word) (bs : List Byte) :
    s.memWrite addr bs = none ↔ bs.length ≠ 0 ∧ memSize < addr.toNat + bs.length := by
  have h := (inBounds_iff addr bs.length).not
  have e : s.memWrite addr bs = none ↔ ¬inBounds addr bs.length = true := by
    rw [State.memWrite]; split <;> simp_all
  rw [e, h]; omega

end Sys2Proof.Machine
end

