-- ==== Sys2Proof/Laws/Registers.lean ====
section
/-! SUPPORT. Reading a register after each operation that writes registers (10_state.md R20; 41_alu.md R152). -/

namespace Sys2Proof.Machine

theorem State.getV_setV (s : State) (x r : Nibble) (b : Byte) :
    (s.setV x b).getV r = if r = x then b else s.getV r := by
  simp only [State.getV, State.setV, Vector.getElem_set, BitVec.toNat_inj]
  split <;> split <;> simp_all

@[simp] theorem State.getV_setV_same (s : State) (x : Nibble) (b : Byte) : (s.setV x b).getV x = b := by
  simp [State.getV_setV]

theorem State.getV_setV_of_ne (s : State) {x r : Nibble} (b : Byte) (h : r ≠ x) :
    (s.setV x b).getV r = s.getV r := by
  simp [State.getV_setV, h]

theorem State.getV_setFlag (s : State) (f : Bool) (r : Nibble) :
    (s.setFlag f).getV r = if r = 15#4 then flagByte f else s.getV r :=
  s.getV_setV 15#4 r _

/-- The flag is what remains when the destination is VF (R152). -/
theorem State.getV_writeWithFlag (s : State) (x : Nibble) (b : Byte) (f : Bool) (r : Nibble) :
    (s.writeWithFlag x b f).getV r = if r = 15#4 then flagByte f else if r = x then b else s.getV r := by
  simp [State.writeWithFlag, State.getV_setFlag, State.getV_setV]

theorem State.getV_writeLogic (s : State) (x : Nibble) (b : Byte) (r : Nibble) :
    (s.writeLogic x b).getV r =
      if r = 15#4 ∧ s.config.logicResetsVf then 0x00 else if r = x then b else s.getV r := by
  unfold State.writeLogic
  cases h : s.config.logicResetsVf <;> simp [State.getV_setV]

theorem State.getV_loadV (s : State) (bs : List Byte) (r : Nibble) :
    (s.loadV bs).getV r = bs[r.toNat]?.getD (s.getV r) := by
  simp [State.loadV, State.getV]

theorem State.ext_getV {s t : State} (h : ∀ r, t.getV r = s.getV r) : t.v = s.v := by
  apply Vector.ext
  intro k hk
  have := h (BitVec.ofNat 4 k)
  simpa [State.getV, Nat.mod_eq_of_lt hk] using this

@[simp] theorem State.length_dumpV (s : State) (x : Nibble) : (s.dumpV x).length = x.toNat + 1 := by
  have := x.isLt
  simp [State.dumpV]; omega

theorem State.getElem?_dumpV (s : State) (x r : Nibble) (h : r.toNat ≤ x.toNat) :
    (s.dumpV x)[r.toNat]? = some (s.getV r) := by
  have := r.isLt
  simp [State.dumpV, State.getV, List.getElem?_take]
  omega

end Sys2Proof.Machine
end

