-- ==== Sys2Proof/Laws/Exec.lean ====
section
/-! SUPPORT. What each shared operation of the instructions and transactions can do, once: the stack, an operand that may
fault, taking a fault, the outcome's state. The provers cite these. -/

namespace Sys2Proof.Machine

/-! ## Outcomes -/

@[simp] theorem mapNext_next (f : State → State) (s : State) : mapNext f (.next s) = .next (f s) := rfl

theorem mapNext_eq_next (f : State → State) (o : Host.Outcome State Fault Refusal) (t : State) :
    mapNext f o = .next t ↔ ∃ u, o = .next u ∧ t = f u := by
  cases o <;> simp [mapNext, eq_comm]

/-! ## Frames -/

theorem SamePart.refl (s : State) (p : Part) : SamePart s s p := by cases p <;> simp [SamePart]

theorem SamePart.trans {s t u : State} {p : Part} (h : SamePart s t p) (k : SamePart t u p) : SamePart s u p := by
  cases p <;> simp_all [SamePart]

theorem SameBut.trans {ps : List Part} {s t u : State} (h : SameBut ps s t) (k : SameBut ps t u) : SameBut ps s u :=
  fun p hp => (h p hp).trans (k p hp)

theorem SameBut.mono {ps qs : List Part} {s t : State} (h : SameBut ps s t) (hs : ∀ p ∈ ps, p ∈ qs) : SameBut qs s t :=
  fun p hp => h p fun hm => hp (hs p hm)

/-- Fault entry: the record, `Halted`, nothing else (R228). -/
theorem faultsWith_raise (s : State) (k : FaultKind) (op : Option Word) : FaultsWith s (s.raise k op) k op := by
  refine ⟨rfl, rfl, fun p hp => ?_⟩
  cases p <;> simp_all [SamePart]

theorem faultsWith_raiseAt (s : State) (k : FaultKind) (i : Instr) :
    FaultsWith s (s.raiseAt k i) k (some (encode i)) :=
  faultsWith_raise s k _

/-! ## The call stack -/

theorem State.push_eq_some (s t : State) (a : Word) :
    s.push a = some t ↔ s.sp < stackDepth ∧ t = { s with stack := s.stack ++ [a] } := by
  unfold State.push
  split <;> simp_all [eq_comm]

theorem State.push_eq_none (s : State) (a : Word) : s.push a = none ↔ stackDepth ≤ s.sp := by
  simp [State.push]

theorem State.pop_of_stack {s : State} {older : List Word} {a : Word} (h : s.stack = older ++ [a]) :
    s.pop = some (a, { s with stack := older }) := by
  simp [State.pop, h]

theorem State.pop_eq_some (s t : State) (a : Word) :
    s.pop = some (a, t) ↔ s.stack = t.stack ++ [a] ∧ t = { s with stack := t.stack } := by
  constructor
  · intro h
    unfold State.pop at h
    split at h
    · rename_i b hb
      cases h
      exact ⟨(List.dropLast_append_getLast? a hb).symm, rfl⟩
    · cases h
  · rintro ⟨h, e⟩
    rw [State.pop_of_stack h, ← e]

theorem State.pop_eq_none (s : State) : s.pop = none ↔ s.stack = [] := by
  cases h : s.stack.getLast? with
  | none => simpa [State.pop, h] using List.getLast?_eq_none_iff.1 h
  | some a =>
    have : s.stack ≠ [] := fun e => by simp [e] at h
    simp [State.pop, h, this]

/-! ## Operands -/

/-- A digit operand is the register's low nibble where that is allowed, or there is none (R172, R207). -/
theorem State.digitOperand_eq_some (s : State) (x d : Nibble) :
    s.digitOperand x = some d ↔
      (s.config.maskLowNibble = true ∨ (s.getV x).toNat ≤ 15) ∧ d.toNat = (s.getV x).toNat % 16 := by
  unfold State.digitOperand
  split
  · rename_i h
    simp only [Bool.or_eq_true, decide_eq_true_eq] at h
    rw [Option.some.injEq, ← BitVec.toNat_inj, BitVec.toNat_setWidth]
    exact ⟨fun e => ⟨h, e.symm⟩, fun e => e.2.symm⟩
  · rename_i h
    simp only [Bool.or_eq_true, decide_eq_true_eq] at h
    simp [h]

theorem State.digitOperand_eq_none (s : State) (x : Nibble) :
    s.digitOperand x = none ↔ s.config.maskLowNibble = false ∧ 15 < (s.getV x).toNat := by
  have : s.digitOperand x = none ↔ ¬(s.config.maskLowNibble = true ∨ (s.getV x).toNat ≤ 15) := by
    unfold State.digitOperand
    split <;> simp_all
  rw [this, not_or, Bool.not_eq_true, Nat.not_le]

theorem toNat_glyphAddr (c : Config) (d : Nibble) : (glyphAddr c d).toNat = c.fontBase.val + 5 * d.toNat := by
  have := c.fontBase.isLt
  have := d.isLt
  simp [glyphAddr]; omega

theorem toNat_zext_byte (b : Byte) : b.zext.toNat = b.toNat := by
  have := b.isLt
  simp [Byte.zext]; omega

theorem toNat_zext_addr (a : Addr12) : a.zext.toNat = a.toNat := by
  have := a.isLt
  simp [Addr12.zext]; omega

theorem State.toNat_indexedTarget (s : State) (nnn : Addr12) :
    (s.indexedTarget nnn).toNat = nnn.toNat + (s.getV 0).toNat := by
  have := nnn.isLt
  have := (s.getV 0).isLt
  rw [State.indexedTarget, BitVec.toNat_add, toNat_zext_addr, toNat_zext_byte]; omega

@[simp] theorem length_bcdDigits (b : Byte) : (bcdDigits b).length = 3 := rfl

/-! ## The fetch -/

theorem State.fetch_eq_some (s : State) (w : Word) :
    s.fetch = some w ↔ s.pc.toNat ≤ 0xFFE ∧ w = wordOfBytes (s.byteAt s.pc.toNat) (s.byteAt (s.pc.toNat + 1)) := by
  unfold State.fetch
  split
  · simp; omega
  · simp [eq_comm]; omega

theorem State.fetch_eq_none (s : State) : s.fetch = none ↔ 0xFFE < s.pc.toNat := by
  simp [State.fetch]

/-! ## Keys -/

theorem State.keyDown_set (s : State) (k j : Nibble) (down : Bool) :
    ({ s with keys := s.keys.set k.toNat down k.isLt } : State).keyDown j = if j = k then down else s.keyDown j := by
  simp only [State.keyDown, Vector.getElem_set, BitVec.toNat_inj]
  split <;> split <;> simp_all

/-! ## FX55 and FX65: what becomes of `I` (R174, R175) -/

theorem State.sameBut_bumpI (s : State) (x : Nibble) : SameBut [.i] s (s.bumpI x) := by
  intro p hp
  unfold State.bumpI
  split
  · cases p <;> simp_all [SamePart]
  · exact .refl _ _

theorem State.getV_bumpI (s : State) (x r : Nibble) : (s.bumpI x).getV r = s.getV r :=
  s.sameBut_bumpI x .v (by decide) r

theorem State.byteAt_bumpI (s : State) (x : Nibble) (a : Nat) : (s.bumpI x).byteAt a = s.byteAt a :=
  s.sameBut_bumpI x .mem (by decide) a

theorem State.toNat_i_bumpI (s : State) (x : Nibble) (h : s.i.toNat + x.toNat ≤ 4095) :
    (s.bumpI x).i.toNat = if s.config.loadStoreIncI then s.i.toNat + x.toNat + 1 else s.i.toNat := by
  unfold State.bumpI
  split <;> simp
  omega

/-! ## The transactions -/

theorem State.nextTransaction_of_nil {s : State} (h : s.pending = []) : s.nextTransaction = (.stepCycle, s) := by
  simp [State.nextTransaction, h]

theorem State.nextTransaction_of_cons {s : State} {tr : Transaction} {rest : List Transaction}
    (h : s.pending = tr :: rest) : s.nextTransaction = (tr, { s with pending := rest }) := by
  simp [State.nextTransaction, h]

theorem toNat_tickDown (b : Byte) : (tickDown b).toNat = b.toNat - 1 := by
  have := b.isLt
  unfold tickDown
  split
  · subst_vars; rfl
  · rename_i h
    have : b.toNat ≠ 0 := fun e => h (BitVec.eq_of_toNat_eq e)
    rw [BitVec.toNat_sub]; simp; omega

/-- A tick counts in `Running` and `WaitingForKey` only (R235). -/
theorem State.tickTimers_eq (s : State) :
    s.tickTimers =
      if s.execState = .running ∨ s.execState = .waitingForKey then
        { s with
          dt := tickDown s.dt
          st := tickDown s.st }
      else s := by
  unfold State.tickTimers
  cases s.execState <;> simp

/-- `SET_KEY` of a real key: its flag, and the end of a wait when it goes down (R203, R237). -/
theorem State.setKey_eq (s : State) (k : Nibble) (down : Bool) :
    s.setKey k.toNat down =
      if s.execState = .waitingForKey ∧ down = true ∧ s.keyDown k = false then
        ({ s with keys := s.keys.set k.toNat down k.isLt } : State).completeWait k
      else { s with keys := s.keys.set k.toNat down k.isLt } := by
  unfold State.setKey
  rw [dif_pos k.isLt]
  by_cases h : s.execState = .waitingForKey ∧ down = true ∧ s.keyDown k = false
  · rw [if_pos h, if_pos (by simpa [State.keyDown] using h)]
    simp
  · rw [if_neg h, if_neg (by simpa [State.keyDown] using h)]

/-- `SET_KEY` of no key (R237). -/
theorem State.setKey_of_gt (s : State) {k : Nat} (h : 15 < k) (down : Bool) : s.setKey k down = s := by
  unfold State.setKey
  rw [dif_neg (by omega)]

theorem State.load_of_le (s : State) {rom : List Byte} (h : rom.length ≤ 3584) : s.load rom = (s.launch rom).answer .ok :=
  if_pos h

theorem State.load_of_gt (s : State) {rom : List Byte} (h : 3584 < rom.length) :
    s.load rom = s.answer .capacityExceeded :=
  if_neg (Nat.not_le_of_gt h)

/-- Memory after `LOAD`: the ROM at PROG_BASE, elsewhere the font or 0 (R261). -/
theorem State.byteAt_launch (s : State) (rom : List Byte) (a : Nat) :
    (s.launch rom).byteAt a =
      if 0x200 ≤ a then rom[a - 0x200]?.getD (Memory.unlisted s.config a) else Memory.unlisted s.config a :=
  Memory.read_writeBytes s.config List.Pairwise.nil progBase a rom

/-- The memory of reset is in its canonical form. -/
theorem wf_reset : Memory.wf State.reset.config State.reset.mem := Memory.wf_nil _

/-! ## The decoder's only error on a word (R96) -/

theorem decodeWord_error {w : Word} {e : DecodeError} (h : decodeWord w = .error e) : e = .unknownOpcode w := by
  unfold decodeWord at h
  dsimp only at h
  split at h <;> first | (cases h; done) | skip
  · split at h
    · cases h
    · split at h <;> cases h
  all_goals first | (cases h; rfl) | (split at h <;> first | (cases h; done) | (cases h; rfl))

end Sys2Proof.Machine
end

