-- ==== Sys2Proof/Laws/PerInstr.lean ====
section
/-! SUPPORT. The family `TableRow`: every instruction's word lies in its own row of the opcode table of 30_encoding.md R95,
one lemma per constructor. -/

namespace Sys2Proof

variable (w : Word)

theorem mask_top : w &&& 0xF000#16 = nib3 w ++ 0#12 := by
  apply BitVec.eq_of_getLsbD_eq
  intro k hk
  rw [BitVec.getLsbD_and, BitVec.getLsbD_append]
  interval_cases k <;> simp [nib3]

theorem mask_low : w &&& 0xF00F#16 = nib3 w ++ 0#8 ++ nib0 w := by
  apply BitVec.eq_of_getLsbD_eq
  intro k hk
  rw [BitVec.getLsbD_and, BitVec.getLsbD_append, BitVec.getLsbD_append]
  interval_cases k <;> simp [nib3, nib0]

theorem mask_byte : w &&& 0xF0FF#16 = nib3 w ++ 0#4 ++ lowByte w := by
  apply BitVec.eq_of_getLsbD_eq
  intro k hk
  rw [BitVec.getLsbD_and, BitVec.getLsbD_append, BitVec.getLsbD_append]
  interval_cases k <;> simp [nib3, lowByte]

theorem formA_row (a : Nibble) (nnn : Addr12) : formA a nnn &&& 0xF000#16 = a ++ 0#12 := by
  rw [mask_top, nib3_formA]

theorem formI_row (a x : Nibble) (nn : Byte) : formI a x nn &&& 0xF000#16 = a ++ 0#12 := by
  rw [mask_top, nib3_formI]

theorem formX_row (a x : Nibble) (nn : Byte) : formI a x nn &&& 0xF0FF#16 = a ++ 0#4 ++ nn := by
  rw [mask_byte, nib3_formI, lowByte_formI]

theorem ofNibbles_row (a b c d : Nibble) : ofNibbles a b c d &&& 0xF000#16 = a ++ 0#12 := by
  rw [mask_top, nib3_ofNibbles]

theorem formR_row (a b c d : Nibble) : ofNibbles a b c d &&& 0xF00F#16 = a ++ 0#8 ++ d := by
  rw [mask_low, nib3_ofNibbles, nib0_ofNibbles]

end Sys2Proof

/-- The word of an instruction, under its row's mask, is its row's match (R95). -/
def Sys2Proof.Laws.TableRow.Statement (i : Sys2Proof.Instr) : Prop := Sys2Proof.encode i &&& i.rowMask = i.rowBits

namespace Sys2Proof.Laws.TableRow

theorem cls : Statement .cls := by unfold Statement; decide

theorem ret : Statement .ret := by unfold Statement; decide

theorem sys (nnn : Addr12) : Statement (.sys nnn) := formA_row _ _

theorem jp (nnn : Addr12) : Statement (.jp nnn) := formA_row _ _

theorem call (nnn : Addr12) : Statement (.call nnn) := formA_row _ _

theorem seImm (x : Nibble) (nn : Byte) : Statement (.seImm x nn) := formI_row _ _ _

theorem sneImm (x : Nibble) (nn : Byte) : Statement (.sneImm x nn) := formI_row _ _ _

theorem seReg (x : Nibble) (y : Nibble) (n : Nibble) : Statement (.seReg x y n) := ofNibbles_row _ _ _ _

theorem ldImm (x : Nibble) (nn : Byte) : Statement (.ldImm x nn) := formI_row _ _ _

theorem addImm (x : Nibble) (nn : Byte) : Statement (.addImm x nn) := formI_row _ _ _

theorem ldReg (x : Nibble) (y : Nibble) : Statement (.ldReg x y) := formR_row _ _ _ _

theorem orReg (x : Nibble) (y : Nibble) : Statement (.orReg x y) := formR_row _ _ _ _

theorem andReg (x : Nibble) (y : Nibble) : Statement (.andReg x y) := formR_row _ _ _ _

theorem xorReg (x : Nibble) (y : Nibble) : Statement (.xorReg x y) := formR_row _ _ _ _

theorem addReg (x : Nibble) (y : Nibble) : Statement (.addReg x y) := formR_row _ _ _ _

theorem subReg (x : Nibble) (y : Nibble) : Statement (.subReg x y) := formR_row _ _ _ _

theorem shr (x : Nibble) (y : Nibble) : Statement (.shr x y) := formR_row _ _ _ _

theorem subn (x : Nibble) (y : Nibble) : Statement (.subn x y) := formR_row _ _ _ _

theorem shl (x : Nibble) (y : Nibble) : Statement (.shl x y) := formR_row _ _ _ _

theorem sneReg (x : Nibble) (y : Nibble) (n : Nibble) : Statement (.sneReg x y n) := ofNibbles_row _ _ _ _

theorem ldI (nnn : Addr12) : Statement (.ldI nnn) := formA_row _ _

theorem jpV0 (nnn : Addr12) : Statement (.jpV0 nnn) := formA_row _ _

theorem rnd (x : Nibble) (nn : Byte) : Statement (.rnd x nn) := formI_row _ _ _

theorem drw (x : Nibble) (y : Nibble) (n : Nibble) : Statement (.drw x y n) := ofNibbles_row _ _ _ _

theorem skp (x : Nibble) : Statement (.skp x) := formX_row _ _ _

theorem sknp (x : Nibble) : Statement (.sknp x) := formX_row _ _ _

theorem ldVxDt (x : Nibble) : Statement (.ldVxDt x) := formX_row _ _ _

theorem ldVxK (x : Nibble) : Statement (.ldVxK x) := formX_row _ _ _

theorem ldDtVx (x : Nibble) : Statement (.ldDtVx x) := formX_row _ _ _

theorem ldStVx (x : Nibble) : Statement (.ldStVx x) := formX_row _ _ _

theorem addI (x : Nibble) : Statement (.addI x) := formX_row _ _ _

theorem ldF (x : Nibble) : Statement (.ldF x) := formX_row _ _ _

theorem ldB (x : Nibble) : Statement (.ldB x) := formX_row _ _ _

theorem storeRegs (x : Nibble) : Statement (.storeRegs x) := formX_row _ _ _

theorem loadRegs (x : Nibble) : Statement (.loadRegs x) := formX_row _ _ _

end Sys2Proof.Laws.TableRow
end

