-- ==== Sys2Proof/Tests/Slice0.lean ====
section
/-! SUPPORT. The model's own tests. Expected values are those of 95_test_vectors.md (the row's id stands beside each test)
or words written out from the encodings of 30_encoding.md R91, R95. Then one witness for every statement with hypotheses. -/

namespace Sys2Proof.Tests

open Sys2Proof Sys2Proof.Machine

/-! ## Well-formed terms, and terms that are not (R98) -/

theorem test_sys_of_cls_is_ill_formed : (Instr.sys 0x0E0).wellFormed = false := by decide
theorem test_sys_of_ret_is_ill_formed : (Instr.sys 0x0EE).wellFormed = false := by decide
theorem test_sys_is_well_formed : (Instr.sys 0x0E1).wellFormed = true := by decide

/-! ## Decoding: a word of every row, written out bit by bit from R95 -/

theorem test_decode_cls : decodeTableWord 16 0b0000000011100000 = some (.cls) := by decide
theorem test_decode_ret : decodeTableWord 16 0b0000000011101110 = some (.ret) := by decide
theorem test_decode_sys : decodeTableWord 16 0b0000111111111111 = some (.sys 0xFFF) := by decide
theorem test_decode_jp : decodeTableWord 16 0b0001101010111100 = some (.jp 0xABC) := by decide
theorem test_decode_call : decodeTableWord 16 0b0010001000010000 = some (.call 0x210) := by decide
theorem test_decode_seImm : decodeTableWord 16 0b0011000100000010 = some (.seImm 1 0x02) := by decide
theorem test_decode_sneImm : decodeTableWord 16 0b0100101000000101 = some (.sneImm 0xA 0x05) := by decide
theorem test_decode_seReg : decodeTableWord 16 0b0101101010110111 = some (.seReg 0xA 0xB 7) := by decide
theorem test_decode_ldImm : decodeTableWord 16 0b0110101000000010 = some (.ldImm 0xA 0x02) := by decide
theorem test_decode_addImm : decodeTableWord 16 0b0111101000000011 = some (.addImm 0xA 0x03) := by decide
theorem test_decode_ldReg : decodeTableWord 16 0b1000000100100000 = some (.ldReg 1 2) := by decide
theorem test_decode_orReg : decodeTableWord 16 0b1000000100100001 = some (.orReg 1 2) := by decide
theorem test_decode_andReg : decodeTableWord 16 0b1000000100100010 = some (.andReg 1 2) := by decide
theorem test_decode_xorReg : decodeTableWord 16 0b1000000100100011 = some (.xorReg 1 2) := by decide
theorem test_decode_addReg : decodeTableWord 16 0b1000000100100100 = some (.addReg 1 2) := by decide
theorem test_decode_subReg : decodeTableWord 16 0b1000000100100101 = some (.subReg 1 2) := by decide
theorem test_decode_shr : decodeTableWord 16 0b1000000100100110 = some (.shr 1 2) := by decide
theorem test_decode_subn : decodeTableWord 16 0b1000000100100111 = some (.subn 1 2) := by decide
theorem test_decode_shl : decodeTableWord 16 0b1000101010111110 = some (.shl 0xA 0xB) := by decide
theorem test_decode_sneReg : decodeTableWord 16 0b1001000100101111 = some (.sneReg 1 2 0xF) := by decide
theorem test_decode_ldI : decodeTableWord 16 0b1010001011110000 = some (.ldI 0x2F0) := by decide
theorem test_decode_jpV0 : decodeTableWord 16 0b1011001100000000 = some (.jpV0 0x300) := by decide
theorem test_decode_rnd : decodeTableWord 16 0b1100111100000001 = some (.rnd 0xF 0x01) := by decide
theorem test_decode_drw : decodeTableWord 16 0b1101000000011111 = some (.drw 0 1 15) := by decide
theorem test_decode_skp : decodeTableWord 16 0b1110000110011110 = some (.skp 1) := by decide
theorem test_decode_sknp : decodeTableWord 16 0b1110000110100001 = some (.sknp 1) := by decide
theorem test_decode_ldVxDt : decodeTableWord 16 0b1111000100000111 = some (.ldVxDt 1) := by decide
theorem test_decode_ldVxK : decodeTableWord 16 0b1111000100001010 = some (.ldVxK 1) := by decide
theorem test_decode_ldDtVx : decodeTableWord 16 0b1111000100010101 = some (.ldDtVx 1) := by decide
theorem test_decode_ldStVx : decodeTableWord 16 0b1111000100011000 = some (.ldStVx 1) := by decide
theorem test_decode_addI : decodeTableWord 16 0b1111000100011110 = some (.addI 1) := by decide
theorem test_decode_ldF : decodeTableWord 16 0b1111000100101001 = some (.ldF 1) := by decide
theorem test_decode_ldB : decodeTableWord 16 0b1111000100110011 = some (.ldB 1) := by decide
theorem test_decode_storeRegs : decodeTableWord 16 0b1111000101010101 = some (.storeRegs 1) := by decide
theorem test_decode_loadRegs : decodeTableWord 16 0b1111000101100101 = some (.loadRegs 1) := by decide

/-- T-D7, T-D10, T-D12. -/
theorem test_decode_illegal :
    [0x8AB8, 0x8ABD, 0x8ABF, 0xE100, 0xE19F, 0xE1A0, 0xF100, 0xF175, 0xF185, 0xF1FF, 0xF130].map (decodeTableWord 16) =
      List.replicate 11 none := by decide

/-- S10: big-endian, and the rest of the bytes is left. -/
theorem test_decode_bytes : decodeBytes [0xA2, 0xF0, 0x12] = .ok (.ldI 0x2F0, [0x12]) := by decide
theorem test_decode_truncated : decodeBytes [0xA2] = .error .truncated := by decide

/-! ## One step of each instruction -/

/-- What holds of the state after one step. -/
def afterStep (s : State) (p : State → Bool) : Bool :=
  match step s with
  | .next t => p t
  | .fault _ | .refused _ => false

/-- What holds of the state in which `w`, placed where `s` fetches, leaves the machine after one step. -/
def after (s : State) (w : Nat) (p : State → Bool) : Bool := afterStep (s.withFetchWord 16 w) p

/-- What holds of the state after one transaction. -/
def afterHost (s : State) (tr : Transaction) (p : State → Bool) : Bool :=
  match perform s tr with
  | .next t => p t
  | .fault _ | .refused _ => false

/-- The state after reset with other parameters. -/
def withConfig (c : Config) : State := { State.reset with config := c }

/-- The machine stands in `Halted` with this record. -/
def haltedWith (k : FaultKind) (pc : Word) (op : Option Word) (t : State) : Bool :=
  t.execState = .halted && t.fault = some ⟨k, pc, op⟩ && t.pc = pc

/-- After reset, with the index register, or the program counter, or memory bytes set. -/
def atI (i : Word) : State := State.reset.setI i
def atPc (pc : Word) : State := State.reset.setPc pc
def withBytes (s : State) (a : Nat) (bs : List Byte) : State :=
  { s with mem := Memory.writeBytes s.config s.mem a bs }

/-- T-G1. -/
theorem test_cls :
    after { State.reset.setV 15 1 with disp := Vector.replicate 32 (Vector.replicate 64 true) } 0x00E0
      (fun t => t.disp = Display.blank && t.getV 15 = 1 && t.pc = 0x202) = true := by decide

/-- T-F5. -/
theorem test_ret :
    after { atPc 0x212 with stack := [0x206] } 0x00EE (fun t => t.pc = 0x206 && t.sp = 0) = true := by decide

/-- T-F6. -/
theorem test_ret_underflow :
    after State.reset 0x00EE (haltedWith .stackUnderflow 0x200 (some 0x00EE)) = true := by decide

/-- T-F18. -/
theorem test_sys :
    after State.reset 0x0123 (haltedWith .unknownOpcode 0x200 (some 0x0123)) = true := by decide

/-- T-F18, with Q_SYS_NOP. -/
theorem test_sys_nop :
    after (withConfig { defaultConfig with sysNop := true }) 0x0123
      (fun t => t.pc = 0x202 && t.execState = .running) = true := by decide

/-- T-F1. -/
theorem test_jp :
    after (atPc 0x20A) 0x1204 (fun t => t.pc = 0x204) = true := by decide

/-- T-F3. -/
theorem test_jp_top :
    after State.reset 0x1FFF (fun t => t.pc = 0xFFF) = true := by decide

/-- T-F4. -/
theorem test_call :
    after (atPc 0x204) 0x2210 (fun t => t.stack = [0x206] && t.sp = 1 && t.pc = 0x210) = true := by decide

/-- T-F7. -/
theorem test_call_overflow :
    after { atPc 0x300 with stack := List.replicate 16 0x202 } 0x2400
      (fun t => haltedWith .stackOverflow 0x300 (some 0x2400) t && t.sp = 16) = true := by decide

/-- T-F8. -/
theorem test_se_imm_skips :
    after (atPc 0x208) 0x3000 (fun t => t.pc = 0x20C) = true := by decide

/-- T-F9. -/
theorem test_se_imm :
    after ((atPc 0x208).setV 0 1) 0x3000 (fun t => t.pc = 0x20A) = true := by decide

/-- T-F10. -/
theorem test_sne_imm :
    after ((atPc 0x300).setV 0xA 5) 0x4A05 (fun t => t.pc = 0x302) = true := by decide

/-- T-F11. -/
theorem test_sne_imm_skips :
    after ((atPc 0x300).setV 0xA 6) 0x4A05 (fun t => t.pc = 0x304) = true := by decide

/-- T-F12. -/
theorem test_se_reg_skips :
    after ((State.reset.setV 1 7).setV 2 7) 0x5120 (fun t => t.pc = 0x204) = true := by decide

/-- T-D5, with Q_STRICT_5_9. -/
theorem test_se_reg_strict :
    after (withConfig { defaultConfig with strict59 := true }) 0x5AB7
      (haltedWith .unknownOpcode 0x200 (some 0x5AB7)) = true := by decide

/-- T-F14. -/
theorem test_sne_reg_skips :
    after ((State.reset.setV 1 7).setV 2 8) 0x9120 (fun t => t.pc = 0x204) = true := by decide

/-- T-F15. -/
theorem test_sne_reg_same :
    after (State.reset.setV 3 9) 0x9330 (fun t => t.pc = 0x202) = true := by decide

/-- T-F16. -/
theorem test_jp_v0 :
    after (State.reset.setV 0 4) 0xB300 (fun t => t.pc = 0x304) = true := by decide

/-- T-F17. -/
theorem test_jp_v0_top :
    after (State.reset.setV 0 0xFF) 0xBFFF (fun t => t.pc = 0x10FE) = true := by decide

/-- T-A2. -/
theorem test_ld_imm_vf :
    after (State.reset.setV 15 1) 0x6FAB (fun t => t.getV 15 = 0xAB && t.pc = 0x202) = true := by decide

/-- T-F19. -/
theorem test_ld_imm_at_top :
    after (atPc 0xFFE) 0x6007 (fun t => t.getV 0 = 7 && t.pc = 0x1000) = true := by decide

/-- T-A3. -/
theorem test_add_imm_no_flag :
    after ((State.reset.setV 1 1).setV 15 1) 0x71FF (fun t => t.getV 1 = 0 && t.getV 15 = 1) = true := by decide

/-- T-A4. -/
theorem test_add_imm_wraps :
    after (State.reset.setV 1 0xFF) 0x7101 (fun t => t.getV 1 = 0 && t.getV 15 = 0) = true := by decide

/-- T-A31. -/
theorem test_ld_reg :
    after (State.reset.setV 2 0x7B) 0x8120 (fun t => t.getV 1 = 0x7B && t.getV 2 = 0x7B) = true := by decide

/-- T-A27. -/
theorem test_or :
    after (((State.reset.setV 1 0xF0).setV 2 0x0F).setV 15 1) 0x8121 (fun t => t.getV 1 = 0xFF && t.getV 15 = 1) = true := by decide

/-- T-A27, with Q_LOGIC_RESETS_VF. -/
theorem test_or_resets_vf :
    after (((withConfig { defaultConfig with logicResetsVf := true }).setV 1 0xF0).setV 15 1) 0x8121
      (fun t => t.getV 1 = 0xF0 && t.getV 15 = 0) = true := by decide

/-- T-A28. -/
theorem test_and :
    after ((State.reset.setV 1 0xF0).setV 2 0x3C) 0x8122 (fun t => t.getV 1 = 0x30) = true := by decide

/-- T-A29. -/
theorem test_xor :
    after ((State.reset.setV 1 0xF0).setV 2 0x3C) 0x8123 (fun t => t.getV 1 = 0xCC) = true := by decide

/-- T-A30. -/
theorem test_xor_same :
    after (State.reset.setV 4 0x5A) 0x8443 (fun t => t.getV 4 = 0) = true := by decide

/-- T-A9. -/
theorem test_add_into_vf :
    after ((State.reset.setV 15 0xFF).setV 1 2) 0x8F14 (fun t => t.getV 15 = 1 && t.pc = 0x202) = true := by decide

/-- T-A11. -/
theorem test_add_old_vf :
    after ((State.reset.setV 1 0xF0).setV 15 0x20) 0x81F4 (fun t => t.getV 1 = 0x10 && t.getV 15 = 1) = true := by decide

/-- T-A13. -/
theorem test_sub_borrow :
    after (((State.reset.setV 1 3).setV 2 5).setV 15 1) 0x8125 (fun t => t.getV 1 = 0xFE && t.getV 15 = 0) = true := by decide

/-- T-A14. -/
theorem test_sub_equal :
    after ((State.reset.setV 1 5).setV 2 5) 0x8125 (fun t => t.getV 1 = 0 && t.getV 15 = 1) = true := by decide

/-- T-A21, with Q_SHIFT_VY. -/
theorem test_shr_vy :
    after (((withConfig { defaultConfig with shiftVy := true }).setV 1 5).setV 2 8) 0x8126
      (fun t => t.getV 1 = 4 && t.getV 15 = 0) = true := by decide

/-- T-A23. -/
theorem test_shr_vf :
    after (State.reset.setV 15 2) 0x8F06 (fun t => t.getV 15 = 0) = true := by decide

/-- T-A16. -/
theorem test_subn :
    after ((State.reset.setV 1 3).setV 2 5) 0x8127 (fun t => t.getV 1 = 2 && t.getV 15 = 1) = true := by decide

/-- T-A17. -/
theorem test_subn_borrow :
    after (((State.reset.setV 1 5).setV 2 3).setV 15 1) 0x8127 (fun t => t.getV 1 = 0xFE && t.getV 15 = 0) = true := by decide

/-- T-A24. -/
theorem test_shl :
    after (State.reset.setV 1 0x81) 0x810E (fun t => t.getV 1 = 2 && t.getV 15 = 1) = true := by decide

/-- T-A25. -/
theorem test_shl_no_bit_out :
    after ((State.reset.setV 1 0x40).setV 15 1) 0x810E (fun t => t.getV 1 = 0x80 && t.getV 15 = 0) = true := by decide

/-- T-M2. -/
theorem test_ld_i :
    after State.reset 0xAFFF (fun t => t.i = 0xFFF && t.pc = 0x202) = true := by decide

/-- T-M4. -/
theorem test_add_i_no_flag :
    after ((atI 0xFFE).setV 1 5) 0xF11E (fun t => t.i = 0x1003 && t.getV 15 = 0 && t.execState = .running) = true := by decide

/-- T-M6. -/
theorem test_ld_f :
    after (State.reset.setV 0 0xA) 0xF029
      (fun t => t.i = 0x32 && t.memRead t.i 5 = some [0xF0, 0x90, 0xF0, 0x90, 0x90]) = true := by decide

/-- T-M9. -/
theorem test_ld_f_above_15 :
    after (State.reset.setV 0 0x10) 0xF029 (haltedWith .invalidOperand 0x200 (some 0xF029)) = true := by decide

/-- T-M15. -/
theorem test_ld_b_top :
    after ((atI 0xFFD).setV 0 0x7B) 0xF033 (fun t => t.memRead 0xFFD 3 = some [1, 2, 3] && t.pc = 0x202) = true := by decide

/-- T-M16. -/
theorem test_ld_b_out_of_bounds :
    after ((atI 0xFFE).setV 0 0x7B) 0xF033
      (fun t => haltedWith .outOfBounds 0x200 (some 0xF033) t && t.memRead 0xFFE 2 = some [0, 0]) = true := by decide

/-- T-M17, with Q_LOADSTORE_INC_I. -/
theorem test_store_regs :
    after ((((withConfig { defaultConfig with loadStoreIncI := true }).setI 0x400).setV 0 0x11).setV 2 0x33) 0xF255
      (fun t => t.memRead 0x400 4 = some [0x11, 0, 0x33, 0] && t.i = 0x403) = true := by decide

/-- T-M19. -/
theorem test_store_regs_out_of_bounds :
    after ((atI 0xFF1).setV 0 9) 0xFF55
      (fun t => haltedWith .outOfBounds 0x200 (some 0xFF55) t && t.byteAt 0xFF1 = 0) = true := by decide

/-- T-M21. -/
theorem test_load_regs :
    after (withBytes ((atI 0x300).setV 3 0x77) 0x300 [2, 3, 4]) 0xF265
      (fun t => t.getV 0 = 2 && t.getV 1 = 3 && t.getV 2 = 4 && t.getV 3 = 0x77 && t.i = 0x300) = true := by decide

/-- T-M5. -/
theorem test_load_regs_out_of_bounds :
    after ((atI 0x1003).setV 0 6) 0xF065
      (fun t => haltedWith .outOfBounds 0x200 (some 0xF065) t && t.getV 0 = 6) = true := by decide

/-- T-G5. -/
theorem test_drw_wraps :
    after (withBytes (((atI 0x300).setV 1 62).setV 2 31) 0x300 [0xF0, 0x90]) 0xD122
      (fun t => t.getV 15 = 0 && t.disp.pixel 63 31 && t.disp.pixel 1 31 && !t.disp.pixel 2 31 && t.disp.pixel 62 0 &&
        !t.disp.pixel 63 0 && t.disp.pixel 1 0) = true := by decide

/-- T-G6. -/
theorem test_drw_collides :
    after (withBytes { (atI 0x300).setV 1 5 with disp := Display.blank.flip 5 5 } 0x300 [0xFF]) 0xD011
      (fun t => t.getV 15 = 1 && t.disp.pixel 4 5 && !t.disp.pixel 5 5 && t.disp.pixel 6 5 && !t.disp.pixel 8 5) = true := by decide

/-- T-K1. -/
theorem test_skp :
    after { State.reset.setV 3 5 with keys := State.reset.keys.set 5 true } 0xE39E (fun t => t.pc = 0x204) = true := by decide

/-- T-K5. -/
theorem test_skp_above_15 :
    after (State.reset.setV 3 0x10) 0xE39E (haltedWith .invalidOperand 0x200 (some 0xE39E)) = true := by decide

/-- T-K3. -/
theorem test_sknp :
    after { State.reset.setV 3 5 with keys := State.reset.keys.set 5 true } 0xE3A1 (fun t => t.pc = 0x202) = true := by decide

/-- T-K4. -/
theorem test_sknp_skips :
    after (State.reset.setV 3 5) 0xE3A1 (fun t => t.pc = 0x204) = true := by decide

/-- T-K6. -/
theorem test_key_wait :
    after { atPc 0x20A with keys := State.reset.keys.set 4 true } 0xF20A
      (fun t => t.execState = .waitingForKey && t.waiting && t.waitReg = 2 && t.pc = 0x20A && t.getV 2 = 0) = true := by decide

/-- T-T1. -/
theorem test_ld_vx_dt :
    after { State.reset with dt := 0x2A } 0xF107 (fun t => t.getV 1 = 0x2A && t.pc = 0x202) = true := by decide

/-- T-T2. -/
theorem test_ld_dt_vx :
    after (State.reset.setV 0 0x3C) 0xF015 (fun t => t.dt = 60 && t.pc = 0x202) = true := by decide

/-- T-T3. -/
theorem test_ld_st_vx :
    after (State.reset.setV 0 2) 0xF018 (fun t => t.st = 2 && t.soundActive && t.pc = 0x202) = true := by decide

/-- T-A32, T-A34: the free byte of this draw, masked. -/
theorem test_rnd :
    ∃ t, step (State.reset.withFetchWord 16 0xC10F) = .next t ∧ t.getV 1 = Config.draw8 0 &&& 0x0F ∧ t.pc = 0x202 :=
  ⟨_, rfl, rfl, rfl⟩

/-- T-A33: whatever the draw. -/
theorem test_rnd_mask_zero :
    ∃ t, step ((State.reset.setV 1 9).withFetchWord 16 0xC100) = .next t ∧ t.getV 1 = 0 :=
  ⟨_, rfl, BitVec.and_zero⟩

/-! ## Fetching and the host's transactions -/

/-- T-F21. -/
theorem test_fetch_odd :
    after (atPc 0x201) 0x6A02 (fun t => t.getV 0xA = 2 && t.pc = 0x203) = true := by decide

/-- T-L9. -/
theorem test_fetch_above_memory :
    afterHost (atPc 0xFFF) .stepCycle (haltedWith .outOfBounds 0xFFF none) = true := by decide

/-- T-L8. -/
theorem test_step_illegal :
    after State.reset 0x8AB8
      (fun t => haltedWith .unknownOpcode 0x200 (some 0x8AB8) t &&
        t.reply = .faulted ⟨.unknownOpcode, 0x200, some 0x8AB8⟩ (some 0x8AB8)) = true := by decide

/-- T-L4. -/
theorem test_empty_rom_first_step :
    afterHost State.reset .stepCycle (haltedWith .unknownOpcode 0x200 (some 0x0000)) = true := by decide

/-- T-L6. -/
theorem test_font_bytes :
    (State.reset.memRead 0x000 5, State.reset.memRead 0x04B 6, State.reset.byteAt 0x1FF) =
      (some [0xF0, 0x90, 0x90, 0x90, 0xF0], some [0xF0, 0x80, 0xF0, 0x80, 0x80, 0x00], 0x00) := by decide

/-- T-L5. -/
theorem test_load_resets :
    afterHost { State.reset.setV 1 9 with
        execState := .halted
        fault := some ⟨.stackUnderflow, 0x200, some 0x00EE⟩
        dt := 7
        keys := State.reset.keys.set 2 true } (.load [0x12, 0x00])
      (fun t => t.execState = .running && t.fault = none && t.getV 1 = 0 && t.dt = 0 && !t.keyDown 2 && t.pc = 0x200 &&
        t.fetch = some 0x1200) = true := by decide

/-- T-K9. -/
theorem test_key_completes_wait :
    afterHost { atPc 0x20A with
        execState := .waitingForKey
        waiting := true
        waitReg := 2 } (.setKey 4 true)
      (fun t => t.keyDown 4 && t.getV 2 = 4 && t.execState = .running && t.pc = 0x20C && !t.waiting) = true := by decide

/-- T-K7. -/
theorem test_held_key_completes_nothing :
    afterHost { atPc 0x20A with
        execState := .waitingForKey
        waiting := true
        waitReg := 2
        keys := State.reset.keys.set 4 true } (.setKey 4 true)
      (fun t => t.execState = .waitingForKey && t.getV 2 = 0 && t.pc = 0x20A) = true := by decide

/-- T-T5. -/
theorem test_halted_timers_stand :
    afterHost { State.reset with
        execState := .halted
        dt := 5
        st := 5 } .tickTimers (fun t => t.dt = 5 && t.st = 5 && t.soundActive) = true := by decide

/-- T-T4, one tick of a schedule. -/
theorem test_step_performs_tick :
    afterStep { State.reset with
        dt := 1
        pending := [.tickTimers, .stop] } (fun t => t.dt = 0 && t.pc = 0x200 && t.pending = [.stop]) = true := by decide

/-- R239, the result column of STOP. -/
theorem test_stop_has_no_result :
    afterHost { State.reset with reply := .ok } .stop (fun t => t = { State.reset with reply := .none }) = true := by decide

/-- S7, T-G3: glyph 0 drawn a second time on the blank display. -/
theorem test_second_draw_collides :
    after { State.reset with disp := (Display.blank.drawSprite 0 0 (State.reset.spriteRows 5)).1 } 0xD015
      (fun t => t.disp = Display.blank && t.getV 15 = 1) = true := by decide

/-- S6. -/
theorem test_tick_floors :
    afterHost { State.reset with dt := 2 } .tickTimers (fun t => t.dt = 1 && t.st = 0) = true := by decide

/-! ## What the next step runs, from the host's words -/

theorem test_fetch_word_runs_first : after State.reset 0x6A02 (fun t => t.getV 0xA = 2 && t.pc = 0x202) = true := by decide
theorem test_reset_memory_wf : Memory.wf State.reset.config State.reset.mem := wf_reset

/-! ## Witnesses: for every statement with hypotheses, states and operands that meet them -/

theorem test_witness_decode_of_encode : (Instr.sys 0x0EF).wellFormed = true ∧ (Instr.drw 15 15 15).wellFormed = true := by
  decide

theorem test_witness_encode_of_decode : decodeWord 0xFF65 = .ok (.loadRegs 15) ∧ decodeWord 0x00EF = .ok (.sys 0x0EF) := by
  decide

theorem test_witness_first_matching_row :
    (0x00E0#16 &&& (Instr.sys 0).rowMask = (Instr.sys 0).rowBits) ∧
      (0x8ABE#16 &&& (Instr.shl 0 0).rowMask = (Instr.shl 0 0).rowBits) := by decide

/-- The last word that can be fetched, and the first that cannot. -/
theorem test_witness_fetch : (atPc 0xFFE).pc.toNat ≤ 0xFFE ∧ 0xFFE < (atPc 0xFFF).pc.toNat := by decide

theorem test_witness_step_runs :
    let s := State.reset.withFetchWord 16 0x6A02
    let u := { s with pending := [.stepCycle, .stop] }
    (s.execState = .running ∧ s.fetch = some 0x6A02 ∧ decodeWord 0x6A02 = .ok (.ldImm 0xA 2) ∧ s.pending = []) ∧
      (u.execState = .running ∧ u.fetch = some 0x6A02 ∧ u.pending = .stepCycle :: [.stop]) := by decide

theorem test_witness_step_cycle_otherwise :
    ({ State.reset with execState := .waitingForKey } : State).execState ≠ .running ∧
      ((atPc 0xFFF).execState = .running ∧ 0xFFE < (atPc 0xFFF).pc.toNat) ∧
      ((State.reset.withFetchWord 16 0xF1FF).execState = .running ∧
        (State.reset.withFetchWord 16 0xF1FF).fetch = some 0xF1FF ∧
        decodeWord 0xF1FF = .error (.unknownOpcode 0xF1FF)) := by decide

theorem test_witness_next_transaction :
    State.reset.pending = [] ∧
      ({ State.reset with pending := [.tickTimers, .stop] } : State).pending = .tickTimers :: [.stop] := ⟨rfl, rfl⟩

theorem test_witness_ret :
    ({ State.reset with stack := [0x206, 0x300] } : State).stack = [0x206] ++ [0x300] ∧ State.reset.sp = 0 := by decide

theorem test_witness_call :
    ({ State.reset with stack := List.replicate 15 0 } : State).sp < 16 ∧
      ({ State.reset with stack := List.replicate 16 0 } : State).sp = 16 := by decide

theorem test_witness_skips_on_registers :
    let s := withConfig { defaultConfig with strict59 := true }
    (State.reset.config.strict59 = false ∨ (7 : Nibble) = 0) ∧ (s.config.strict59 = false ∨ (0 : Nibble) = 0) ∧
      s.config.strict59 = true ∧ (1 : Nibble) ≠ 0 := by decide

theorem test_witness_loads :
    ((Instr.addImm 15 0xFF, 0xFE) : Instr × Nat) ∈
      [(Instr.ldImm 15 0xFF, 0xFF), (.addImm 15 0xFF, (((State.reset.setV 15 0xFF).getV 15).toNat + 255) % 256)] := by
  decide

theorem test_witness_index_load_and_add :
    ((Instr.addI 1, 4) : Instr × Nat) ∈
      [(Instr.ldI 0xFFF, 0xFFF),
        (.addI 1, (((atI 0xFFFF).setV 1 5).i.toNat + (((atI 0xFFFF).setV 1 5).getV 1).toNat) % 65536)] := by decide

theorem test_witness_logic :
    ((Instr.orReg 15 14, fun a b => a || b) : Instr × (Bool → Bool → Bool)) ∈
        [(Instr.orReg 15 14, fun a b => a || b), (.andReg 15 14, fun a b => a && b), (.xorReg 15 14, fun a b => a != b)] ∧
      7 < 8 ∧ (14#4 : Nibble) ≠ 15#4 :=
  ⟨List.mem_cons_self, by decide, by decide⟩

theorem test_witness_subtractions :
    ((Instr.subn 1 2, 5, 3) : Instr × Nat × Nat) ∈ [(Instr.subReg 1 2, 3, 5), (.subn 1 2, 5, 3)] := by decide

theorem test_witness_flag_registers : (14#4 : Nibble) ≠ 15#4 ∧ ¬(15#4 : Nibble) ≠ 15#4 := by decide

theorem test_witness_font :
    let u := (withConfig { defaultConfig with maskLowNibble := true }).setV 0 0x10
    (((State.reset.setV 0 15).getV 0).toNat ≤ 15 ∨ (State.reset.setV 0 15).config.maskLowNibble = true) ∧
      ((u.getV 0).toNat ≤ 15 ∨ u.config.maskLowNibble = true) ∧
      (15 < ((State.reset.setV 0 16).getV 0).toNat ∧ (State.reset.setV 0 16).config.maskLowNibble = false) := by decide

theorem test_witness_bcd :
    (Memory.wf (atI 0xFFD).config (atI 0xFFD).mem ∧ (atI 0xFFD).i.toNat ≤ 4093) ∧
      (Memory.wf (atI 0xFFE).config (atI 0xFFE).mem ∧ 4093 < (atI 0xFFE).i.toNat) := by decide

theorem test_witness_register_store :
    (Memory.wf (atI 0xFF0).config (atI 0xFF0).mem ∧ (atI 0xFF0).i.toNat + (15 : Nibble).toNat ≤ 4095) ∧
      (Memory.wf (atI 0xFF1).config (atI 0xFF1).mem ∧ 4095 < (atI 0xFF1).i.toNat + (15 : Nibble).toNat) := by decide

theorem test_witness_range :
    (16 = 0 ∨ (0xFF0 : Word).toNat + 16 ≤ 4096) ∧ (16 ≠ 0 ∧ 4096 < (0xFF1 : Word).toNat + 16) ∧
      (Memory.wf State.reset.config State.reset.mem ∧ (0xFFF : Word).toNat + [(7 : Byte)].length ≤ 4096) ∧
      ([(7 : Byte)] ≠ [] ∧ 4096 < (0x1000 : Word).toNat + [(7 : Byte)].length) := by decide

theorem test_witness_register_load :
    (atI 0xFFF).i.toNat + (0 : Nibble).toNat ≤ 4095 ∧ 4095 < (atI 0x1000).i.toNat + (0 : Nibble).toNat := by decide

theorem test_witness_stored_word :
    let s := (atPc 0xFFC).setI 0xFFE
    Memory.wf s.config s.mem ∧ 1 ≤ (1 : Nibble).toNat ∧ s.i = s.pc + 2 ∧
      s.pc.toNat + 2 + (1 : Nibble).toNat ≤ 4095 := by decide

theorem test_witness_canonical_memory :
    let m : Memory := [(0x010, 0x55), (0x300, 0x01)]
    Memory.wf defaultConfig m ∧ Memory.wf defaultConfig (Memory.writeBytes defaultConfig m 0x400 []) ∧
      ∀ a, Memory.read defaultConfig m a = Memory.read defaultConfig (Memory.writeBytes defaultConfig m 0x400 []) a :=
  ⟨by decide, by decide, fun _ => rfl⟩

/-- A draw of no rows anywhere, the last rows of memory, and one row too many. -/
theorem test_witness_draw :
    ((0 : Nibble) = 0 ∨ (atI 0xFFFF).i.toNat + (0 : Nibble).toNat ≤ 4096) ∧
      ((3 : Nibble) = 0 ∨ (atI 0xFFD).i.toNat + (3 : Nibble).toNat ≤ 4096) ∧
      ((3 : Nibble) ≠ 0 ∧ 4096 < (atI 0xFFE).i.toNat + (3 : Nibble).toNat) := by decide

/-- At 0 (glyph 0, row `F0`) a pixel that is covered and off after reset, on in a lit display, and one that is not covered. -/
theorem test_witness_draw_pixels :
    let lit : State := { State.reset with disp := Vector.replicate 32 (Vector.replicate 64 true) }
    (State.reset.drawCovers 0 0 1 3 0 ∧ State.reset.disp.pixel 3 0 = false) ∧
      (lit.drawCovers 0 0 1 3 0 ∧ lit.disp.pixel 3 0 = true) ∧ ¬State.reset.drawCovers 0 0 1 4 0 := by
  refine ⟨⟨⟨0, 3, 0xF0, by decide, by decide, by decide, by decide, by decide⟩, by decide⟩,
    ⟨⟨0, 3, 0xF0, by decide, by decide, by decide, by decide, by decide⟩, by decide⟩, ?_⟩
  rw [State.drawCovers, ← spriteBit_eq_true _ (by decide)]
  decide

/-- After reset no pixel is on: every covered one is off. -/
theorem test_witness_draw_no_collision :
    ∀ px py, State.reset.drawCovers 0 0 5 px py → State.reset.disp.pixel px py = false :=
  fun px py _ => Display.pixel_blank px py

/-- A sprite in memory whose first draw, on the blank display, reports no collision. -/
theorem test_witness_clean_draw :
    ((5 : Nibble) = 0 ∨ State.reset.i.toNat + (5 : Nibble).toNat ≤ 4096) ∧
      ∃ t, exec (.drw 0 0 5) State.reset = .next t ∧ t.getV 15#4 = 0 := ⟨by decide, _, rfl, by decide⟩

theorem test_witness_second_draw :
    ∃ t u, exec (.drw 0 0 1) State.reset = .next t ∧ t.execState = State.reset.execState ∧
      exec (.drw 0 0 1) { State.reset with disp := t.disp } = .next u :=
  ⟨_, _, rfl, rfl, rfl⟩

theorem test_witness_skips_on_key :
    let u := (withConfig { defaultConfig with maskLowNibble := true }).setV 0 0x1F
    ((((State.reset.setV 0 15).getV 0).toNat ≤ 15 ∨ (State.reset.setV 0 15).config.maskLowNibble = true) ∧
        (15 : Nibble).toNat = ((State.reset.setV 0 15).getV 0).toNat % 16) ∧
      (((u.getV 0).toNat ≤ 15 ∨ u.config.maskLowNibble = true) ∧ (15 : Nibble).toNat = (u.getV 0).toNat % 16) ∧
      (15 < ((State.reset.setV 0 16).getV 0).toNat ∧ (State.reset.setV 0 16).config.maskLowNibble = false) := by decide

theorem test_witness_set_key :
    let s := { State.reset with execState := .waitingForKey }
    (s.execState = .waitingForKey ∧ true = true ∧ s.keyDown 15 = false) ∧
      ¬(State.reset.execState = .waitingForKey ∧ true = true ∧ State.reset.keyDown 15 = false) ∧
      (14 : Nibble) ≠ 15 ∧ 15 < 16 := by decide

theorem test_witness_ticks :
    (State.reset.execState = .running ∨ State.reset.execState = .waitingForKey) ∧
      (({ State.reset with execState := .halted } : State).execState = .idle ∨
        ({ State.reset with execState := .halted } : State).execState = .halted) := by decide

/-- The longest ROM, the ends of its range and of the font's; the bytes beside the font at the lowest and the highest
FONT_BASE; and the last byte of memory below and above a ROM. -/
theorem test_witness_load :
    let rom := List.replicate 3584 (0x12 : Byte)
    let low := defaultConfig.fontBase.val
    let high := ({ defaultConfig with fontBase := 0x1B0 } : Config).fontBase.val
    rom.length ≤ 3584 ∧ (0 < 80 ∧ 79 < 80) ∧ (0 < rom.length ∧ 3583 < rom.length) ∧
      ((80 < low ∨ low + 80 ≤ 80) ∧ (80 < 0x200 ∨ 0x200 + rom.length ≤ 80)) ∧
      ((0x1AF < high ∨ high + 80 ≤ 0x1AF) ∧ (0x1AF < 0x200 ∨ 0x200 + rom.length ≤ 0x1AF)) ∧
      ((0x1FF < low ∨ low + 80 ≤ 0x1FF) ∧ (0x1FF < 0x200 ∨ 0x200 + rom.length ≤ 0x1FF)) ∧
      ((0x201 < high ∨ high + 80 ≤ 0x201) ∧ (0x201 < 0x200 ∨ 0x200 + [(0x12 : Byte)].length ≤ 0x201)) := by
  have h : (List.replicate 3584 (0x12 : Byte)).length = 3584 := List.length_replicate
  have l : defaultConfig.fontBase.val = 0 := rfl
  have u : ({ defaultConfig with fontBase := 0x1B0 } : Config).fontBase.val = 0x1B0 := rfl
  dsimp only
  rw [h, l, u, List.length_singleton]
  omega

/-- The ends of the font and of the ROM, with the font against the ROM: the bytes there are those of R63 and the ROM's, and
the byte below the font and the one above the ROM are 0. -/
theorem test_load_range_ends :
    afterHost (withConfig { defaultConfig with fontBase := 0x1B0 }) (.load [0x12, 0x34])
      (fun t => t.byteAt 0x1AF = 0 && t.byteAt 0x1B0 = 0xF0 && t.byteAt 0x1FF = 0x80 && t.byteAt 0x200 = 0x12 &&
        t.byteAt 0x201 = 0x34 && t.byteAt 0x202 = 0 && t.byteAt 0xFFF = 0) = true := by decide

theorem test_witness_oversize_load : 3584 < (List.replicate 3585 (0x12 : Byte)).length := by
  rw [List.length_replicate]; omega

/-- A state far from reset that meets the hypotheses about the empty ROM. -/
theorem test_witness_reset_is_load :
    let s : State := { (State.reset.setV 3 9).raise .stackUnderflow none with pc := 0x777 }
    s.config = defaultConfig ∧ s.pending = [] ∧ s.draws = 0 := ⟨rfl, rfl, rfl⟩

theorem test_witness_faults_are_precise :
    ∃ t, exec .ret State.reset = .next t ∧ State.reset.execState ≠ .halted ∧ t.execState = .halted :=
  ⟨_, rfl, by decide, rfl⟩

theorem test_witness_instruction_frame : ∃ t, exec (.loadRegs 3) State.reset = .next t ∧
    instrWritesReg State.reset.config (.loadRegs 3) 4 = false := ⟨_, rfl, rfl⟩

theorem test_witness_transaction_frame : ∃ t, perform State.reset (.setKey 3 true) = .next t := ⟨_, rfl⟩

theorem test_witness_exec_state_transitions :
    let s := { State.reset with execState := .waitingForKey }
    (∃ t, perform s (.setKey 3 true) = .next t) ∧ s.execState = .waitingForKey ∧ true = true ∧
      ∃ q : Nibble, q.toNat = 3 ∧ s.keyDown q = false :=
  ⟨⟨_, rfl⟩, rfl, rfl, 3, rfl, rfl⟩

theorem test_witness_halted_is_terminal :
    let s := State.reset.raise .stackUnderflow (some 0x00EE)
    s.execState = .halted ∧ (∀ rom, Transaction.load (List.replicate 3585 0) = .load rom → 3584 < rom.length) ∧
      (∃ t, perform s (.load (List.replicate 3585 0)) = .next t) ∧ ∃ t, perform s (.setKey 1 true) = .next t :=
  ⟨rfl, fun rom h => by cases h; rw [List.length_replicate]; omega, ⟨_, rfl⟩, _, rfl⟩

theorem test_witness_idle_loop :
    let s := State.reset.withFetchWord 16 0x1200
    s.execState = .running ∧ s.pc.toNat = (0x200 : Addr12).toNat ∧ s.fetch = some (0x1#4 ++ (0x200 : Addr12)) := by
  decide

theorem test_witness_stack :
    State.reset.sp + (List.replicate 16 (0x202 : Word)).length ≤ 16 ∧ State.reset.sp ≤ 16 ∧
      16 < State.reset.sp + (List.replicate 17 (0x202 : Word)).length ∧ State.reset.sp = 0 := by decide

theorem test_witness_sound_timer : ∃ t, exec (.ldStVx 1) State.reset = .next t := ⟨_, rfl⟩

theorem test_witness_display : (∀ x y n, (Instr.cls : Instr) ≠ .drw x y n) ∧ ∃ t, exec .cls State.reset = .next t :=
  ⟨fun _ _ _ => by simp, _, rfl⟩

theorem test_witness_keys :
    (∀ x, Instr.ldVxK 1 ≠ .skp x ∧ Instr.ldVxK 1 ≠ .sknp x) ∧ ∃ t, exec (.ldVxK 1) State.reset = .next t :=
  ⟨fun _ => by simp, _, rfl⟩

/-- At an idle loop the invariant holds, and the machine steps. -/
theorem test_witness_inv :
    Inv (State.reset.withFetchWord 16 0x1200) ∧ ∃ t, step (State.reset.withFetchWord 16 0x1200) = .next t :=
  ⟨{ memory := by decide
     faultIffHalted := ⟨(fun h => by cases h), (fun h => by cases h)⟩
     faultRecord := fun _ h => by cases h
     waitingIff := fun _ => ⟨(fun h => by cases h), (fun h => by cases h)⟩
     waitingAt := fun h => by cases h
     stack := fun _ => ⟨Nat.zero_le _, fun _ h => by cases h⟩
     pc := fun _ => by decide }, _, rfl⟩

theorem test_witness_power_on :
    let s : State := { State.reset.setV 7 0xFF with execState := .idle }
    PowerOn s ∧ Memory.wf s.config s.mem := ⟨⟨rfl, rfl⟩, by decide⟩

end Sys2Proof.Tests
end

section
/-! SUPPORT. Decoding drops no bit (30_encoding.md R94, R95): a word that decodes is the encoding of its instruction. -/

namespace Sys2Proof

variable {w : Word} {i : Instr}

theorem formA_low12_of_top {a : Nibble} (h : (nib3 w).toNat = a.toNat) : formA a (low12 w) = w := by
  rw [← BitVec.eq_of_toNat_eq h, formA_fields]

theorem formI_nib2_of_ends {a : Nibble} {nn : Byte} (h : (nib3 w).toNat = a.toNat) (hn : (lowByte w).toNat = nn.toNat) :
    formI a (nib2 w) nn = w := by
  rw [← BitVec.eq_of_toNat_eq h, ← BitVec.eq_of_toNat_eq hn, formI_fields]

theorem ofNibbles_middle_of_ends {a n : Nibble} (h : (nib3 w).toNat = a.toNat) (hn : (nib0 w).toNat = n.toNat) :
    ofNibbles a (nib2 w) (nib1 w) n = w := by
  rw [← BitVec.eq_of_toNat_eq h, ← BitVec.eq_of_toNat_eq hn, ofNibbles_fields]

/-- The word of a decoded instruction is the word that was decoded; the cases are the top nibbles of R94. -/
theorem encode_of_decodeWord (h : decodeWord w = .ok i) : encode i = w := by
  unfold decodeWord at h
  dsimp only at h
  split at h
  case h_1 top =>
    split at h
    · cases h; exact Eq.symm ‹_›
    · split at h <;> cases h
      · exact Eq.symm ‹_›
      · exact formA_low12_of_top top
  case h_2 top | h_3 top | h_11 top | h_12 top => cases h; exact formA_low12_of_top top
  case h_4 top | h_5 top | h_7 top | h_8 top | h_13 top => cases h; exact formI_nib2_of_ends top rfl
  case h_6 top | h_10 top | h_14 top => cases h; exact ofNibbles_middle_of_ends top rfl
  case h_9 top => split at h <;> cases h <;> exact ofNibbles_middle_of_ends top ‹_›
  case h_15 top | h_16 top => split at h <;> cases h <;> exact formI_nib2_of_ends top ‹_›
  case h_17 => cases h

end Sys2Proof
end


section
/-! SUPPORT. What executing an instruction can do to the parts the invariant speaks of, said once: it faults, or it enters
the key wait, or it completes (60_exceptions.md R228, 44_keys_timers.md R202, 40_flow.md R120). -/

namespace Sys2Proof.Machine

variable {s t : State} {i : Instr}

/-- What an instruction that completes leaves of the parts the invariant speaks of. -/
structure Completes (s t : State) : Prop where
  execState : t.execState = s.execState := by simp
  fault : t.fault = s.fault := by simp
  waiting : t.waiting = s.waiting := by simp
  config : t.config = s.config := by simp
  /-- A store is checked against the end of memory (R65). -/
  memory : Memory.wf s.config s.mem → Memory.wf s.config t.mem := by simp
  /-- The stack stands, or `CALL` pushed below depth 16, or `RET` popped (R24). -/
  stack : t.stack = s.stack ∨ (s.sp < stackDepth ∧ t.stack = s.stack ++ [s.pc + 2]) ∨ t.stack = s.stack.dropLast :=
    by simp
  /-- The next instruction, the one after it, a jump target, or a return address (R120, R122, R123, R129). -/
  pc : t.pc = s.pc + 2 ∨ t.pc = s.pc + 4 ∨ t.pc.toNat ≤ 0x10FE ∨ t.pc ∈ s.stack := by simp

/-- The outcomes an instruction can have. -/
inductive Answers (i : Instr) (s : State) : Host.Outcome State Fault Refusal → Prop
  | faults {kind : FaultKind} (own : instrOwnFault s.config i = some kind) : Answers i s (.next (s.raiseAt kind i))
  | waits {x : Nibble} (wait : i = .ldVxK x) :
      Answers i s (.next { s with waiting := true, waitReg := x, execState := .waitingForKey })
  | completes {t : State} (done : Completes s t) : Answers i s (.next t)

/-! ## The operations that are more than an update of a register -/

theorem completes_skipIf (s : State) (c : Bool) : Completes s (s.skipIf c) := { pc := by cases c <;> simp }

theorem completes_jump {w : Word} (h : w.toNat ≤ 0x10FE) : Completes s (s.setPc w) := { pc := .inr (.inr (.inl h)) }

theorem toNat_zext_addr_le (nnn : Addr12) : nnn.zext.toNat ≤ 0x10FE := by
  rw [toNat_zext_addr]; omega

theorem State.toNat_indexedTarget_le (s : State) (nnn : Addr12) : (s.indexedTarget nnn).toNat ≤ 0x10FE := by
  rw [State.toNat_indexedTarget]; omega

theorem completes_ret {a : Word} (h : s.pop = some (a, t)) : Completes s (t.setPc a) := by
  obtain ⟨hs, ht⟩ := (State.pop_eq_some s t a).1 h
  rw [ht]
  exact { stack := .inr (.inr (by simp [hs])), pc := .inr (.inr (.inr (by simp [hs]))) }

theorem completes_call (nnn : Addr12) (h : s.push (s.pc + 2) = some t) : Completes s (t.setPc nnn.zext) := by
  obtain ⟨hd, rfl⟩ := (State.push_eq_some s t _).1 h
  exact { stack := .inr (.inl ⟨hd, rfl⟩), pc := .inr (.inr (.inl (toNat_zext_addr_le nnn))) }

/-- A store writes memory alone, inside its bounds (R65). -/
theorem State.memWrite_keeps_wf {a : Word} {bs : List Byte} (h : s.memWrite a bs = some t) :
    ∃ m, t = { s with mem := m } ∧ (Memory.wf s.config s.mem → Memory.wf s.config m) := by
  obtain ⟨fits, rfl⟩ := (State.memWrite_eq_some s t a bs).1 h
  refine ⟨_, rfl, fun wf => ?_⟩
  rcases fits with none | fits
  · rwa [List.length_eq_zero_iff.1 none]
  · exact Memory.wf_writeBytes _ wf fits

theorem State.maskLowNibble_of_no_digit {x : Nibble} (h : s.digitOperand x = none) : s.config.maskLowNibble = false :=
  ((s.digitOperand_eq_none x).1 h).1

/-! ## Every instruction -/

/-- Executing an instruction answers a next state, in one of the three ways. -/
theorem exec_answers (i : Instr) (s : State) : Answers i s (exec i s) := by
  cases i with
  | cls => exact .completes {}
  | ret =>
    simp only [exec, execRet]
    split
    · exact .completes (completes_ret ‹_›)
    · exact .faults rfl
  | sys nnn =>
    simp only [exec, execSys]
    split
    · exact .completes {}
    · exact .faults (if_neg ‹_›)
  | jp nnn => exact .completes (completes_jump (toNat_zext_addr_le nnn))
  | call nnn =>
    simp only [exec, execCall]
    split
    · exact .completes (completes_call nnn ‹_›)
    · exact .faults rfl
  | seImm x nn => exact .completes (completes_skipIf s _)
  | sneImm x nn => exact .completes (completes_skipIf s _)
  | seReg x y n =>
    simp only [exec, execSeReg]
    split
    · exact .faults (if_pos ‹_›)
    · exact .completes (completes_skipIf s _)
  | sneReg x y n =>
    simp only [exec, execSneReg]
    split
    · exact .faults (if_pos ‹_›)
    · exact .completes (completes_skipIf s _)
  | ldImm x nn => exact .completes {}
  | addImm x nn => exact .completes {}
  | ldReg x y => exact .completes {}
  | orReg x y => exact .completes {}
  | andReg x y => exact .completes {}
  | xorReg x y => exact .completes {}
  | addReg x y => exact .completes {}
  | subReg x y => exact .completes {}
  | shr x y => exact .completes {}
  | subn x y => exact .completes {}
  | shl x y => exact .completes {}
  | ldI nnn => exact .completes {}
  | jpV0 nnn => exact .completes (completes_jump (s.toNat_indexedTarget_le nnn))
  | rnd x nn => exact .completes {}
  | drw x y n =>
    simp only [exec, execDrw]
    split
    · exact .completes {}
    · exact .faults rfl
  | skp x =>
    simp only [exec, execSkp]
    split
    · exact .completes (completes_skipIf s _)
    · exact .faults (by simp [instrOwnFault, State.maskLowNibble_of_no_digit ‹_›])
  | sknp x =>
    simp only [exec, execSknp]
    split
    · exact .completes (completes_skipIf s _)
    · exact .faults (by simp [instrOwnFault, State.maskLowNibble_of_no_digit ‹_›])
  | ldVxDt x => exact .completes {}
  | ldVxK x => exact .waits rfl
  | ldDtVx x => exact .completes {}
  | ldStVx x => exact .completes {}
  | addI x => exact .completes {}
  | ldF x =>
    simp only [exec, execLdF]
    split
    · exact .completes {}
    · exact .faults (by simp [instrOwnFault, State.maskLowNibble_of_no_digit ‹_›])
  | ldB x =>
    simp only [exec, execLdB]
    split
    case h_1 t stored =>
      obtain ⟨m, rfl, wf⟩ := State.memWrite_keeps_wf stored
      exact .completes { memory := wf }
    case h_2 => exact .faults rfl
  | storeRegs x =>
    simp only [exec, execStoreRegs]
    split
    case h_1 t stored =>
      obtain ⟨m, rfl, wf⟩ := State.memWrite_keeps_wf stored
      exact .completes { memory := by simpa using wf }
    case h_2 => exact .faults rfl
  | loadRegs x =>
    simp only [exec, execLoadRegs]
    split
    · exact .completes {}
    · exact .faults rfl

/-- No instruction's own fault is of a kind that only the host's `LOAD` or nothing at all can raise (R225, R226). -/
theorem instrOwnFault_kind {c : Config} {k : FaultKind} (h : instrOwnFault c i = some k) :
    k ≠ .invalidRegister ∧ k ≠ .capacityExceeded := by
  unfold instrOwnFault at h
  grind

end Sys2Proof.Machine
end

section
/-! SUPPORT. The invariant through each part of a step: fields it does not speak of, an instruction that faults, waits or
completes, and the host's transactions (10_state.md R23, R24, R28, R32). -/

namespace Sys2Proof.Machine

variable {s t : State} {i : Instr}

/-- The invariant does not speak of the registers, timers, keys, pixels, schedule, report or draws. -/
theorem Inv.congr (h : Inv s)
    (e : t =
      { s with
        v := t.v, i := t.i, dt := t.dt, st := t.st, keys := t.keys
        disp := t.disp, pending := t.pending, reply := t.reply, draws := t.draws }) : Inv t := by
  rw [e]
  exact ⟨h.memory, h.faultIffHalted, h.faultRecord, h.waitingIff, h.waitingAt, h.stack, h.pc⟩

theorem Inv.answer (h : Inv s) (r : Reply) : Inv (s.answer r) := h.congr rfl

/-- In `Running` the invariant speaks of memory, the stack and `pc`: there is no fault and no wait. -/
theorem inv_of_running (run : s.execState = .running) (memory : Memory.wf s.config s.mem) (fault : s.fault = none)
    (waiting : s.waiting = false) (stack : s.sp ≤ stackDepth ∧ ∀ a ∈ s.stack, a.toNat ≤ 0x1000)
    (pc : s.pc.toNat ≤ 0x10FE) : Inv s where
  memory := memory
  faultIffHalted := by simp [fault, run]
  faultRecord := by simp [fault]
  waitingIff := by simp [waiting, run]
  waitingAt := by simp [run]
  stack := fun _ => stack
  pc := fun _ => pc

theorem Inv.fault_of_running (h : Inv s) (run : s.execState = .running) : s.fault = none := by
  have := h.faultIffHalted
  simpa [run] using this

theorem Inv.not_waiting_of_running (h : Inv s) (run : s.execState = .running) : s.waiting = false := by
  have := h.waitingIff
  simpa [run] using this

/-! ## STEP_CYCLE -/

/-- Taking a precise fault in `Running` (R228, R229). -/
theorem Inv.raise (h : Inv s) (run : s.execState = .running) {kind : FaultKind}
    (hk : kind ≠ .invalidRegister ∧ kind ≠ .capacityExceeded) {op : Option Word} (hop : op = s.fetch) :
    Inv (s.raise kind op) where
  memory := h.memory
  faultIffHalted := by simp
  faultRecord := by
    intro r hr
    cases hr
    exact ⟨rfl, hop, hk⟩
  waitingIff := by simp [h.not_waiting_of_running run]
  waitingAt := by simp
  stack := fun _ => h.stack (by simp [run])
  pc := fun _ => h.pc (by simp [run])

/-- Entering the key wait at its `FX0A` (R202). -/
theorem Inv.wait (h : Inv s) (run : s.execState = .running) {x : Nibble} (hf : s.fetch = some (encode (.ldVxK x))) :
    Inv { s with waiting := true, waitReg := x, execState := .waitingForKey } where
  memory := h.memory
  faultIffHalted := by simp [h.fault_of_running run]
  faultRecord := by simp [h.fault_of_running run]
  waitingIff := by simp
  waitingAt := fun _ => hf
  stack := fun _ => h.stack (by simp [run])
  pc := fun _ => h.pc (by simp [run])

/-- The stack after an instruction that completed at a fetched `pc` (R24, R122). -/
theorem Completes.stack_le (c : Completes s t) (hpc : s.pc.toNat ≤ 0xFFE)
    (h : s.sp ≤ stackDepth ∧ ∀ a ∈ s.stack, a.toNat ≤ 0x1000) :
    t.sp ≤ stackDepth ∧ ∀ a ∈ t.stack, a.toNat ≤ 0x1000 := by
  obtain ⟨depth, bound⟩ := h
  rw [State.sp]
  rcases c.stack with e | ⟨room, e⟩ | e <;> rw [e]
  · exact ⟨depth, bound⟩
  · have ret : (s.pc + 2).toNat ≤ 0x1000 := by bv_omega
    exact ⟨by rw [List.length_append]; exact room, by simpa [or_imp, forall_and] using ⟨bound, ret⟩⟩
  · exact ⟨Nat.le_trans (by simp [State.sp]) depth, fun a ha => bound a (List.mem_of_mem_dropLast ha)⟩

/-- `pc` after an instruction that completed at a fetched `pc` (R23). -/
theorem Completes.pc_le (c : Completes s t) (hpc : s.pc.toNat ≤ 0xFFE) (h : ∀ a ∈ s.stack, a.toNat ≤ 0x1000) :
    t.pc.toNat ≤ 0x10FE := by
  rcases c.pc with e | e | target | ret
  · bv_omega
  · bv_omega
  · exact target
  · exact Nat.le_trans (h _ ret) (by decide)

/-- An instruction that completes at a fetched `pc` keeps the invariant. -/
theorem Completes.inv (c : Completes s t) (h : Inv s) (run : s.execState = .running) (hpc : s.pc.toNat ≤ 0xFFE) :
    Inv t := by
  have hst := h.stack (by simp [run])
  refine inv_of_running (c.execState.trans run) ?_ (c.fault.trans (h.fault_of_running run))
    (c.waiting.trans (h.not_waiting_of_running run)) (c.stack_le hpc hst) (c.pc_le hpc hst.2)
  rw [c.config]
  exact c.memory h.memory

/-- Executing the instruction that was fetched keeps the invariant. -/
theorem Inv.exec (h : Inv s) (run : s.execState = .running) {w : Word} (hf : s.fetch = some w)
    (hd : decodeWord w = .ok i) (he : exec i s = .next t) : Inv t := by
  have hw : s.fetch = some (encode i) := by rw [hf, encode_of_decodeWord hd]
  have ans := exec_answers i s
  rw [he] at ans
  cases ans with
  | faults own => exact h.raise run (instrOwnFault_kind own) hw.symm
  | waits wait => subst wait; exact h.wait run hw
  | completes done => exact done.inv h run ((State.fetch_eq_some s _).1 hw).1

theorem Inv.fetchDecodeExec (h : Inv s) (run : s.execState = .running) (he : fetchDecodeExec s = .next t) : Inv t := by
  unfold Machine.fetchDecodeExec at he
  split at he
  case h_1 none => cases he; exact h.raise run (by simp) none.symm
  case h_2 w fetched =>
    split at he
    case h_1 i decoded => exact h.exec run fetched decoded he
    case h_2 => cases he; exact h.raise run (by simp) fetched.symm

theorem Inv.stepCycle (h : Inv s) (he : stepCycle s = .next t) : Inv t := by
  obtain ⟨u, hu, rfl⟩ := (mapNext_eq_next _ _ _).1 he
  refine Inv.answer ?_ _
  split at hu
  case isTrue run => exact h.fetchDecodeExec run hu
  case isFalse => cases hu; exact h

/-! ## The other transactions -/

/-- A ROM that fits ends inside memory, so the launch state has the invariant, whatever the state before (R36, R261). -/
theorem inv_launch (s : State) {rom : List Byte} (fits : rom.length ≤ romMax) : Inv (s.launch rom) := by
  have inside : progBase + rom.length ≤ memSize := by
    have : progBase + romMax = memSize := rfl
    omega
  exact inv_of_running rfl (Memory.wf_writeBytes _ (Memory.wf_nil _) inside) rfl rfl
    ⟨Nat.zero_le _, by simp [State.launch, State.reset]⟩ (by simp [State.launch, State.reset])

theorem Inv.load (h : Inv s) (rom : List Byte) : Inv (s.load rom) := by
  unfold State.load
  split
  · exact (inv_launch s ‹_›).answer _
  · exact h.answer _

theorem Inv.tickTimers (h : Inv s) : Inv s.tickTimers := by
  rw [State.tickTimers_eq]
  split
  · exact h.congr rfl
  · exact h

/-- The key that ends a wait moves `pc` past the `FX0A`, which was fetched (R203). -/
theorem Inv.completeWait (h : Inv s) (wait : s.execState = .waitingForKey) (k : Nibble) : Inv (s.completeWait k) := by
  have hpc := ((State.fetch_eq_some s _).1 (h.waitingAt wait)).1
  have hf : s.fault = none := by
    have := h.faultIffHalted
    simpa [wait] using this
  exact inv_of_running rfl h.memory hf rfl (h.stack (by simp [wait])) (by simp only [State.completeWait]; bv_omega)

theorem Inv.setKey (h : Inv s) (k : Nat) (down : Bool) : Inv (s.setKey k down) := by
  have flag (ks : Vector Bool 16) : Inv { s with keys := ks } := h.congr rfl
  unfold State.setKey
  split
  · dsimp only
    split
    case isTrue hk wait => exact (flag (s.keys.set k down hk)).completeWait wait.1 _
    case isFalse => exact flag _
  · exact h

/-- Every transaction keeps the invariant. -/
theorem Inv.perform (h : Inv s) {tr : Transaction} (he : perform s tr = .next t) : Inv t := by
  cases tr with
  | stepCycle => exact h.stepCycle he
  | load rom => cases he; exact (h.load rom).answer _
  | tickTimers => cases he; exact h.tickTimers.answer _
  | setKey k down => cases he; exact (h.setKey k down).answer _
  | snapshot => cases he; exact h.answer _
  | soundActive => cases he; exact h.answer _
  | stop => cases he; exact h.answer _

theorem Inv.nextTransaction (h : Inv s) : Inv s.nextTransaction.2 := by
  unfold State.nextTransaction
  split
  · exact h
  · exact h.congr rfl

/-- Settles O54: taking a transaction off the schedule keeps the invariant, and so does performing it. -/
theorem stepKeepsInv : Obligations.StepKeepsInv := fun _ _ h he => h.nextTransaction.perform he

theorem inv_of_powerOn (on : PowerOn s) (memory : Memory.wf s.config s.mem) : Inv s := by
  obtain ⟨idle, none⟩ := on
  exact {
    memory
    faultIffHalted := by simp [none, idle]
    faultRecord := by simp [none]
    waitingIff := fun h => absurd idle h
    waitingAt := by simp [idle]
    stack := fun h => absurd idle h
    pc := fun h => absurd idle h }

/-- Settles O55: reset is a state in `Running` with an empty stack; at power-on most of the invariant asks for nothing. -/
theorem invHoldsAtReset : Obligations.InvHoldsAtReset :=
  ⟨inv_of_running rfl wf_reset rfl rfl ⟨Nat.zero_le _, by simp [State.reset]⟩ (by decide), fun _ => inv_of_powerOn⟩

end Sys2Proof.Machine
end

section
/-! SUPPORT. The canonical form of memory is one (log 13). -/

namespace Sys2Proof.Machine

variable {c : Config} {m m' : Memory}

/-- A cell with the lowest address of its list differs from what a list without that address reads there. -/
theorem Memory.read_head_ne {b : Nat} {x : Byte} (hm : Memory.wf c ((b, x) :: m)) (hm' : ∀ p ∈ m', b < p.1) :
    Memory.read c ((b, x) :: m) b ≠ Memory.read c m' b := by
  rw [Memory.read_of_lt c hm', Memory.read, if_pos rfl]
  exact (hm.2 (b, x) (by simp)).2

theorem Memory.wf.tail {p : Host.Cell} (h : Memory.wf c (p :: m)) : Memory.wf c m :=
  ⟨(List.pairwise_cons.1 h.1).2, fun q hq => h.2 q (List.mem_cons_of_mem p hq)⟩

/-- Every cell of a list lies above an address below its first cell. -/
theorem Memory.lt_of_lt_head {a : Nat} {p : Host.Cell} (h : Memory.Rising (p :: m)) (ha : a < p.1) :
    ∀ q ∈ p :: m, a < q.1 := by
  intro q hq
  rcases List.mem_cons.1 hq with rfl | hq
  · exact ha
  · exact Nat.lt_trans ha ((List.pairwise_cons.1 h).1 q hq)

/-- Lists with the same first cell that read the same have tails that read the same. -/
theorem Memory.read_tail_eq {b : Nat} {x : Byte} (hm : Memory.Rising ((b, x) :: m)) (hm' : Memory.Rising ((b, x) :: m'))
    (h : ∀ a, Memory.read c ((b, x) :: m) a = Memory.read c ((b, x) :: m') a) (a : Nat) :
    Memory.read c m a = Memory.read c m' a := by
  by_cases e : a = b
  · rw [e, Memory.read_of_lt c (List.pairwise_cons.1 hm).1, Memory.read_of_lt c (List.pairwise_cons.1 hm').1]
  · simpa [Memory.read, e] using h a

/-- Settles O28, by induction on both lists: their first cells have one address, or the lower of the two would read
otherwise in the other list; then they hold one byte, and the tails read the same. -/
theorem canonicalMemoryIsUnique : Obligations.CanonicalMemoryIsUnique := by
  intro c m
  induction m with
  | nil =>
    intro m' _ hm' h
    cases m' with
    | nil => rfl
    | cons p m' => exact absurd (h p.1).symm (Memory.read_head_ne hm' (by simp))
  | cons p m ih =>
    intro m' hm hm' h
    obtain ⟨b, x⟩ := p
    cases m' with
    | nil => exact absurd (h b) (Memory.read_head_ne hm (by simp))
    | cons p' m' =>
      obtain ⟨b', x'⟩ := p'
      rcases Nat.lt_trichotomy b b' with lt | rfl | gt
      · exact absurd (h b) (Memory.read_head_ne hm (Memory.lt_of_lt_head hm'.1 lt))
      · obtain rfl : x = x' := by simpa [Memory.read] using h b
        rw [ih m' hm.tail hm'.tail (Memory.read_tail_eq hm.1 hm'.1 h)]
      · exact absurd (h b').symm (Memory.read_head_ne hm' (Memory.lt_of_lt_head hm.1 gt))

end Sys2Proof.Machine
end

section
/-! SUPPORT. The launch state (10_state.md R36): its memory, its fields, and what `LOAD` leaves as it was. -/

namespace Sys2Proof.Machine

/-- A font byte, which lies below PROG_BASE (R62). -/
theorem State.byteAt_launch_font (s : State) (rom : List Byte) {k : Nat} (hk : k < 80) :
    s.config.fontData[k]? = some ((s.launch rom).byteAt (s.config.fontBase.val + k)) := by
  have := s.config.fontBase.isLt
  rw [State.byteAt_launch, if_neg (by omega)]
  simp [Memory.unlisted, hk]

theorem State.byteAt_launch_rom (s : State) (rom : List Byte) {k : Nat} (hk : k < rom.length) :
    rom[k]? = some ((s.launch rom).byteAt (0x200 + k)) := by
  rw [State.byteAt_launch, if_pos (by omega)]
  simp [hk]

/-- Outside the font an unlisted address reads 0. -/
theorem Memory.unlisted_eq_zero {c : Config} {a : Nat} (h : a < c.fontBase.val ∨ c.fontBase.val + 80 ≤ a) :
    Memory.unlisted c a = 0 := by
  unfold Memory.unlisted
  split
  · rw [Vector.getElem?_eq_none (by omega), Option.getD_none]
  · rfl

theorem State.byteAt_launch_other (s : State) (rom : List Byte) {a : Nat}
    (font : a < s.config.fontBase.val ∨ s.config.fontBase.val + 80 ≤ a) (prog : a < 0x200 ∨ 0x200 + rom.length ≤ a) :
    (s.launch rom).byteAt a = 0 := by
  rw [State.byteAt_launch, Memory.unlisted_eq_zero font]
  split
  · rw [List.getElem?_eq_none (by omega), Option.getD_none]
  · rfl

theorem State.sameBut_launch (s : State) (rom : List Byte) :
    SameBut (.reply :: (Transaction.load rom).parts) s ((s.launch rom).answer .ok) := by
  intro p hp
  have kept : p = .config ∨ p = .pending ∨ p = .draws := by cases p <;> simp_all [Transaction.parts]
  rcases kept with rfl | rfl | rfl <;> rfl

/-- Settles O39: the launch state's fields are those of `State.reset`, and memory holds the font, the ROM and zeros. -/
theorem loadGivesLaunchState : Obligations.LoadGivesLaunchState := by
  intro s rom fits
  refine ⟨(s.launch rom).answer .ok, by rw [perform, State.load_of_le s fits], ?_, rfl, rfl,
    rfl, rfl, rfl, ?_, rfl, Display.pixel_blank, rfl, rfl, fun k => s.byteAt_launch_font rom,
    fun k => s.byteAt_launch_rom rom, fun a => s.byteAt_launch_other rom, s.sameBut_launch rom⟩
  · intro r
    simp [State.getV, State.launch, State.reset]
  · intro k
    simp [State.keyDown, State.launch, State.reset]

end Sys2Proof.Machine
end

section
/-! SUPPORT. Runs of pushes and of pops on the call stack (10_state.md R24). -/

namespace Sys2Proof.Machine

variable {s : State}

/-- Pushing addresses that find room appends them. -/
theorem State.pushAll_of_room {addrs : List Word} (h : s.sp + addrs.length ≤ stackDepth) :
    s.pushAll addrs = some { s with stack := s.stack ++ addrs } := by
  induction addrs generalizing s with
  | nil => simp [State.pushAll]
  | cons a rest ih =>
    rw [List.length_cons] at h
    have first : s.push a = some { s with stack := s.stack ++ [a] } :=
      (State.push_eq_some s _ a).2 ⟨by omega, rfl⟩
    rw [State.pushAll, first, Option.bind_some, ih (by simp [State.sp] at *; omega)]
    simp

/-- Pushing more addresses than there is room for fails. -/
theorem State.pushAll_of_no_room {addrs : List Word} (hs : s.sp ≤ stackDepth) (h : stackDepth < s.sp + addrs.length) :
    s.pushAll addrs = none := by
  induction addrs generalizing s with
  | nil => simp at h; omega
  | cons a rest ih =>
    rw [List.length_cons] at h
    rw [State.pushAll, Option.bind_eq_none_iff]
    intro t ht
    obtain ⟨room, rfl⟩ := (State.push_eq_some s t a).1 ht
    apply ih <;> simp [State.sp] at * <;> omega

/-- Popping what lies on top of `older` answers it newest first and leaves `older`. -/
theorem State.popN_append (older newer : List Word) (h : s.stack = older ++ newer) :
    s.popN newer.length = some (newer.reverse, { s with stack := older }) := by
  induction newer using List.reverseRecOn generalizing s with
  | nil =>
    rw [List.append_nil] at h
    rw [← h]
    rfl
  | append_singleton newer a ih =>
    have top : s.pop = some (a, { s with stack := older ++ newer }) := State.pop_of_stack (by simp [h])
    rw [List.length_append, List.length_singleton, State.popN, top, Option.bind_some, ih rfl]
    simp

/-- Settles O50, from what a run of pushes and a run of pops do to the stack. -/
theorem stackReversesOrder : Obligations.StackReversesOrder := by
  intro s addrs
  exact ⟨fun room => ⟨_, State.pushAll_of_room room, by simp [State.sp], State.popN_append s.stack addrs rfl⟩,
    State.pushAll_of_no_room, fun empty => (State.pop_eq_none s).2 (List.length_eq_zero_iff.1 empty)⟩

end Sys2Proof.Machine
end

section
/-! SUPPORT. What executing an instruction does from a state with another sound timer, other keys and another display: the
same, but to those three themselves (10_state.md R26, R27, R35). -/

namespace Sys2Proof.Machine

/-- The state with the parts that only a few instructions observe replaced: `ST`, the keys, the display. -/
def State.withPeripherals (s : State) (b : Byte) (ks : Vector Bool 16) (d : Display) : State :=
  { s with st := b, keys := ks, disp := d }

variable (s : State) (b : Byte) (ks : Vector Bool 16) (d : Display)

/-! ## What stays as it was -/

@[simp] theorem State.withPeripherals_i : (s.withPeripherals b ks d).i = s.i := rfl
@[simp] theorem State.withPeripherals_pc : (s.withPeripherals b ks d).pc = s.pc := rfl
@[simp] theorem State.withPeripherals_config : (s.withPeripherals b ks d).config = s.config := rfl
@[simp] theorem State.withPeripherals_getV (x : Nibble) : (s.withPeripherals b ks d).getV x = s.getV x := rfl
@[simp] theorem State.withPeripherals_dumpV (x : Nibble) : (s.withPeripherals b ks d).dumpV x = s.dumpV x := rfl
@[simp] theorem State.withPeripherals_strictRefuses (n : Nibble) :
    (s.withPeripherals b ks d).strictRefuses n = s.strictRefuses n := rfl
@[simp] theorem State.withPeripherals_digitOperand (x : Nibble) :
    (s.withPeripherals b ks d).digitOperand x = s.digitOperand x := rfl
@[simp] theorem State.withPeripherals_memRead (a : Word) (n : Nat) :
    (s.withPeripherals b ks d).memRead a n = s.memRead a n := rfl

/-! ## The operations that branch commute with the replacement -/

@[simp] theorem State.withPeripherals_skipIf (c : Bool) :
    (s.withPeripherals b ks d).skipIf c = (s.skipIf c).withPeripherals b ks d := by
  cases c <;> rfl

@[simp] theorem State.withPeripherals_writeLogic (x : Nibble) (y : Byte) :
    (s.withPeripherals b ks d).writeLogic x y = (s.writeLogic x y).withPeripherals b ks d := by
  cases h : s.config.logicResetsVf <;> simp only [State.writeLogic, withPeripherals_config, h] <;> rfl

@[simp] theorem State.withPeripherals_bumpI (x : Nibble) :
    (s.withPeripherals b ks d).bumpI x = (s.bumpI x).withPeripherals b ks d := by
  cases h : s.config.loadStoreIncI <;> simp only [State.bumpI, withPeripherals_config, h] <;> rfl

@[simp] theorem State.withPeripherals_push (a : Word) :
    (s.withPeripherals b ks d).push a = (s.push a).map (·.withPeripherals b ks d) := by
  by_cases h : s.stack.length < stackDepth <;> simp [State.push, State.withPeripherals, State.sp, h]

@[simp] theorem State.withPeripherals_pop :
    (s.withPeripherals b ks d).pop = s.pop.map (Prod.map id (·.withPeripherals b ks d)) := by
  cases h : s.stack.getLast? <;> simp [State.pop, State.withPeripherals, h]

@[simp] theorem State.withPeripherals_memWrite (a : Word) (bs : List Byte) :
    (s.withPeripherals b ks d).memWrite a bs = (s.memWrite a bs).map (·.withPeripherals b ks d) := by
  cases h : inBounds a bs.length <;> simp [State.memWrite, State.withPeripherals, h]

/-! ## Every instruction -/

/-- An instruction acts as it does from any other sound timer, keys and display, unless it is a skip on a key or a draw
that observes another value; and it leaves the new values, but for the part it writes itself. -/
theorem exec_withPeripherals (i : Instr) (hk : ks = s.keys ∨ ∀ x, i ≠ .skp x ∧ i ≠ .sknp x)
    (hd : d = s.disp ∨ ∀ x y n, i ≠ .drw x y n) :
    exec i (s.withPeripherals b ks d) =
      mapNext (fun t => t.withPeripherals (if Part.st ∈ instrParts i then t.st else b) ks
        (if Part.disp ∈ instrParts i then t.disp else d)) (exec i s) := by
  have next {t u : State} (e : t = u) : (Host.Outcome.next t : Host.Outcome State Fault Refusal) = .next u := by rw [e]
  cases i
  case ret =>
    simp only [exec, execRet, State.withPeripherals_pop]
    cases s.pop <;> rfl
  case sys nnn =>
    simp only [exec, execSys]
    rw [State.withPeripherals_config]
    cases s.config.sysNop <;> rfl
  case call nnn =>
    simp only [exec, execCall, State.withPeripherals_pc, State.withPeripherals_push]
    cases s.push (s.pc + 2) <;> rfl
  case seImm => exact next (s.withPeripherals_skipIf ..)
  case sneImm => exact next (s.withPeripherals_skipIf ..)
  case seReg x y n =>
    simp only [exec, execSeReg]
    rw [State.withPeripherals_strictRefuses]
    cases s.strictRefuses n
    · exact next (s.withPeripherals_skipIf ..)
    · rfl
  case sneReg x y n =>
    simp only [exec, execSneReg]
    rw [State.withPeripherals_strictRefuses]
    cases s.strictRefuses n
    · exact next (s.withPeripherals_skipIf ..)
    · rfl
  case orReg => exact next (s.withPeripherals_writeLogic ..)
  case andReg => exact next (s.withPeripherals_writeLogic ..)
  case xorReg => exact next (s.withPeripherals_writeLogic ..)
  case drw x y n =>
    obtain rfl : d = s.disp := hd.resolve_right fun h => h x y n rfl
    simp only [exec, execDrw, State.withPeripherals_i, State.withPeripherals_memRead]
    cases s.memRead s.i n.toNat <;> rfl
  case skp x =>
    obtain rfl : ks = s.keys := hk.resolve_right fun h => (h x).1 rfl
    simp only [exec, execSkp, State.withPeripherals_digitOperand]
    cases s.digitOperand x
    · rfl
    · exact next (s.withPeripherals_skipIf ..)
  case sknp x =>
    obtain rfl : ks = s.keys := hk.resolve_right fun h => (h x).2 rfl
    simp only [exec, execSknp, State.withPeripherals_digitOperand]
    cases s.digitOperand x
    · rfl
    · exact next (s.withPeripherals_skipIf ..)
  case ldF x =>
    simp only [exec, execLdF, State.withPeripherals_digitOperand]
    cases s.digitOperand x <;> rfl
  case ldB x =>
    simp only [exec, execLdB, State.withPeripherals_i, State.withPeripherals_getV, State.withPeripherals_memWrite]
    cases s.memWrite s.i (bcdDigits (s.getV x)) <;> rfl
  case storeRegs x =>
    simp only [exec, execStoreRegs, State.withPeripherals_i, State.withPeripherals_dumpV, State.withPeripherals_memWrite]
    cases s.memWrite s.i (s.dumpV x) with
    | none => rfl
    | some u => exact next (congrArg State.advance (u.withPeripherals_bumpI ..))
  case loadRegs x =>
    simp only [exec, execLoadRegs, State.withPeripherals_i, State.withPeripherals_memRead]
    cases s.memRead s.i (x.toNat + 1) with
    | none => rfl
    | some bytes => exact next (congrArg State.advance ((s.loadV bytes).withPeripherals_bumpI ..))
  all_goals rfl

/-- `exec_withPeripherals` with nothing replaced: the keys stay, and the display where it is not the instruction's own. -/
theorem exec_keeps_keys_and_display {i : Instr} {s t : State} (h : exec i s = .next t) :
    t.keys = s.keys ∧ (if Part.disp ∈ instrParts i then t.disp else s.disp) = t.disp := by
  have e := exec_withPeripherals s s.st s.keys s.disp i (.inl rfl) (.inl rfl)
  rw [show s.withPeripherals s.st s.keys s.disp = s from rfl, h, mapNext_next, Host.Outcome.next.injEq] at e
  exact ⟨(congrArg State.keys e :), (congrArg State.disp e).symm⟩

/-- Settles O51: no instruction observes `ST`, whatever the keys and the display are. -/
theorem soundTimerIsUnread : Obligations.SoundTimerIsUnread := by
  intro i s t b h
  obtain ⟨keys, disp⟩ := exec_keeps_keys_and_display h
  have e := exec_withPeripherals s b s.keys s.disp i (.inl rfl) (.inl rfl)
  rw [h, mapNext_next, disp] at e
  exact e.trans (by rw [← keys]; rfl)

theorem exec_keeps_st {i : Instr} {s t : State} (h : exec i s = .next t) :
    (if Part.st ∈ instrParts i then t.st else s.st) = t.st := by
  have e := soundTimerIsUnread i s t s.st h
  rw [show ({ s with st := s.st } : State) = s from rfl, h, Host.Outcome.next.injEq] at e
  exact (congrArg State.st e).symm

/-- Settles O53: no instruction but a skip on a key observes the keys, whatever `ST` and the display are. -/
theorem keysAreReadBySkipsOnly : Obligations.KeysAreReadBySkipsOnly := by
  intro i s t ks noSkip h
  obtain ⟨keys, disp⟩ := exec_keeps_keys_and_display h
  refine ⟨keys, ?_⟩
  have e := exec_withPeripherals s s.st ks s.disp i (.inr noSkip) (.inl rfl)
  rw [h, mapNext_next, disp, exec_keeps_st h] at e
  exact e

end Sys2Proof.Machine
end

section
/-! SUPPORT. The fetch, and the two operations of memory over a range: what they answer, what a store leaves at every address
and what the next fetch reads of it (20_memory.md R64, R65, R66, R76). -/

namespace Sys2Proof.Machine

variable {s t : State}

/-! ## The fetch -/

/-- Settles O6, from the two cases of the fetch and the value of a big-endian word. -/
theorem fetchIsBigEndian : Obligations.FetchIsBigEndian := by
  intro s
  refine ⟨fun inside => ⟨_, (s.fetch_eq_some _).2 ⟨inside, rfl⟩, ?_⟩, (s.fetch_eq_none).2⟩
  rw [toNat_wordOfBytes, Nat.mul_comm]

/-! ## A range that was read or written -/

theorem State.getElem?_of_memRead {addr : Word} {n : Nat} {bs : List Byte} (h : s.memRead addr n = some bs) {k : Nat}
    (hk : k < n) : bs[k]? = some (s.byteAt (addr.toNat + k)) := by
  obtain ⟨-, rfl⟩ := (s.memRead_eq_some addr n bs).1 h
  rw [Memory.getElem?_readBytes, if_pos hk]
  rfl

theorem State.length_of_memRead {addr : Word} {n : Nat} {bs : List Byte} (h : s.memRead addr n = some bs) :
    bs.length = n := by
  obtain ⟨-, rfl⟩ := (s.memRead_eq_some addr n bs).1 h
  exact Memory.length_readBytes ..

/-- The byte at every address after a store: the byte of that place, or what was there (R65). -/
theorem State.byteAt_of_memWrite {addr : Word} {bs : List Byte} (wf : Memory.wf s.config s.mem)
    (h : s.memWrite addr bs = some t) (a : Nat) :
    t.byteAt a = if addr.toNat ≤ a then bs[a - addr.toNat]?.getD (s.byteAt a) else s.byteAt a := by
  obtain ⟨-, rfl⟩ := (s.memWrite_eq_some t addr bs).1 h
  exact Memory.read_writeBytes s.config wf.1 addr.toNat a bs

/-- Inside the range a store leaves its own bytes. -/
theorem State.getElem?_of_memWrite {addr : Word} {bs : List Byte} (wf : Memory.wf s.config s.mem)
    (h : s.memWrite addr bs = some t) {k : Nat} (hk : k < bs.length) : bs[k]? = some (t.byteAt (addr.toNat + k)) := by
  rw [State.byteAt_of_memWrite wf h, if_pos (Nat.le_add_right ..), Nat.add_sub_cancel_left]
  simp [hk]

/-- Outside the range a store leaves every byte as it was. -/
theorem State.byteAt_of_memWrite_outside {addr : Word} {bs : List Byte} (wf : Memory.wf s.config s.mem)
    (h : s.memWrite addr bs = some t) {a : Nat} (ha : a < addr.toNat ∨ addr.toNat + bs.length ≤ a) :
    t.byteAt a = s.byteAt a := by
  rw [State.byteAt_of_memWrite wf h]
  split
  · rw [List.getElem?_eq_none (by omega), Option.getD_none]
  · rfl

theorem State.sameBut_memWrite {addr : Word} {bs : List Byte} (h : s.memWrite addr bs = some t) :
    SameBut [.mem] s t := by
  obtain ⟨-, rfl⟩ := (s.memWrite_eq_some t addr bs).1 h
  intro p hp
  cases p <;> simp_all [SamePart, State.getV]

/-- Settles O29, from when a read and a write of a range answer and from the bytes they then give. -/
theorem rangeIsCheckedAsAWhole : Obligations.RangeIsCheckedAsAWhole := by
  intro s addr
  refine ⟨fun n fits => ?_, fun n asked out => (s.memRead_eq_none addr n).2 ⟨asked, out⟩, fun bs wf fits => ?_,
    fun bs given out => (s.memWrite_eq_none addr bs).2 ⟨mt List.length_eq_zero_iff.1 given, out⟩⟩
  · have h := (s.memRead_eq_some addr n _).2 ⟨fits, rfl⟩
    exact ⟨_, h, State.length_of_memRead h, fun k => State.getElem?_of_memRead h⟩
  · have h := (s.memWrite_eq_some _ addr bs).2 ⟨.inr fits, rfl⟩
    exact ⟨_, h, fun k => State.getElem?_of_memWrite wf h, fun a => State.byteAt_of_memWrite_outside wf h,
      State.sameBut_memWrite h⟩

/-! ## Registers stored over the next instruction -/

/-- `LD [I], Vx` whose range lies inside memory (R174). -/
theorem exec_storeRegs_of_memWrite {x : Nibble} (h : s.memWrite s.i (s.dumpV x) = some t) :
    exec (.storeRegs x) s = .next (t.bumpI x).advance := by
  simp only [exec, execStoreRegs, h]

/-- After the store of `V[0]` to `V[x]` the byte at `I + r` is `V[r]` (R174). -/
theorem State.byteAt_of_dumpV_stored {x r : Nibble} (wf : Memory.wf s.config s.mem)
    (h : s.memWrite s.i (s.dumpV x) = some t) (hr : r.toNat ≤ x.toNat) :
    t.byteAt (s.i.toNat + r.toNat) = s.getV r := by
  have stored := State.getElem?_of_memWrite wf h (k := r.toNat) (by rw [State.length_dumpV]; omega)
  rw [s.getElem?_dumpV x r hr] at stored
  exact (Option.some.inj stored).symm

/-- Settles O27: `pc + 2` is `I`, where the store has put `V[0]` and `V[1]`. -/
theorem storedWordIsFetchedNext : Obligations.StoredWordIsFetchedNext := by
  intro x s wf two next fits
  have hi : s.i.toNat = s.pc.toNat + 2 := by rw [next, BitVec.toNat_add]; simp; omega
  have h := (s.memWrite_eq_some _ s.i (s.dumpV x)).2 ⟨.inr (by rw [State.length_dumpV, memSize]; omega), rfl⟩
  refine ⟨_, exec_storeRegs_of_memWrite h, (State.fetch_eq_some _ _).2 ?_⟩
  rw [State.advance_pc, State.bumpI_pc, ← next]
  simp only [State.advance_byteAt, State.bumpI_byteAt]
  exact ⟨by omega, congrArg₂ wordOfBytes (State.byteAt_of_dumpV_stored wf h (r := 0) (Nat.zero_le _)).symm
    (State.byteAt_of_dumpV_stored wf h (r := 1) two).symm⟩

end Sys2Proof.Machine
end

section
/-! SUPPORT. The host's schedule: every transaction answers a next state, and it does the same whatever transactions are
still to come, which it leaves as they are (20_memory.md R74, 60_exceptions.md R239; log 3). -/

namespace Sys2Proof.Machine

/-- The state with another schedule of the host's. -/
def State.withSchedule (s : State) (trs : List Transaction) : State := { s with pending := trs }

section
variable (s : State) (trs : List Transaction)

/-! ## What stays as it was -/

@[simp] theorem State.withSchedule_i : (s.withSchedule trs).i = s.i := rfl
@[simp] theorem State.withSchedule_pc : (s.withSchedule trs).pc = s.pc := rfl
@[simp] theorem State.withSchedule_execState : (s.withSchedule trs).execState = s.execState := rfl
@[simp] theorem State.withSchedule_config : (s.withSchedule trs).config = s.config := rfl
@[simp] theorem State.withSchedule_getV (x : Nibble) : (s.withSchedule trs).getV x = s.getV x := rfl
@[simp] theorem State.withSchedule_dumpV (x : Nibble) : (s.withSchedule trs).dumpV x = s.dumpV x := rfl
@[simp] theorem State.withSchedule_keyDown (k : Nibble) : (s.withSchedule trs).keyDown k = s.keyDown k := rfl
@[simp] theorem State.withSchedule_strictRefuses (n : Nibble) :
    (s.withSchedule trs).strictRefuses n = s.strictRefuses n := rfl
@[simp] theorem State.withSchedule_digitOperand (x : Nibble) :
    (s.withSchedule trs).digitOperand x = s.digitOperand x := rfl
@[simp] theorem State.withSchedule_memRead (a : Word) (n : Nat) : (s.withSchedule trs).memRead a n = s.memRead a n := rfl
@[simp] theorem State.withSchedule_fetch : (s.withSchedule trs).fetch = s.fetch := rfl

/-! ## The operations that branch commute with another schedule -/

@[simp] theorem State.withSchedule_skipIf (c : Bool) :
    (s.withSchedule trs).skipIf c = (s.skipIf c).withSchedule trs := by
  cases c <;> rfl

@[simp] theorem State.withSchedule_writeLogic (x : Nibble) (y : Byte) :
    (s.withSchedule trs).writeLogic x y = (s.writeLogic x y).withSchedule trs := by
  cases h : s.config.logicResetsVf <;> simp only [State.writeLogic, withSchedule_config, h] <;> rfl

@[simp] theorem State.withSchedule_bumpI (x : Nibble) :
    (s.withSchedule trs).bumpI x = (s.bumpI x).withSchedule trs := by
  cases h : s.config.loadStoreIncI <;> simp only [State.bumpI, withSchedule_config, h] <;> rfl

@[simp] theorem State.withSchedule_push (a : Word) :
    (s.withSchedule trs).push a = (s.push a).map (·.withSchedule trs) := by
  by_cases h : s.stack.length < stackDepth <;> simp [State.push, State.withSchedule, State.sp, h]

@[simp] theorem State.withSchedule_pop :
    (s.withSchedule trs).pop = s.pop.map (Prod.map id (·.withSchedule trs)) := by
  cases h : s.stack.getLast? <;> simp [State.pop, State.withSchedule, h]

@[simp] theorem State.withSchedule_memWrite (a : Word) (bs : List Byte) :
    (s.withSchedule trs).memWrite a bs = (s.memWrite a bs).map (·.withSchedule trs) := by
  cases h : inBounds a bs.length <;> simp [State.memWrite, State.withSchedule, h]

/-! ## Every instruction -/

theorem exec_withSchedule (i : Instr) :
    exec i (s.withSchedule trs) = mapNext (·.withSchedule trs) (exec i s) := by
  cases i
  case ret =>
    simp only [exec, execRet, State.withSchedule_pop]
    cases s.pop <;> rfl
  case sys nnn =>
    simp only [exec, execSys]
    rw [State.withSchedule_config]
    cases s.config.sysNop <;> rfl
  case call nnn =>
    simp only [exec, execCall, State.withSchedule_pc, State.withSchedule_push]
    cases s.push (s.pc + 2) <;> rfl
  case seReg x y n =>
    simp only [exec, execSeReg]
    rw [State.withSchedule_strictRefuses]
    cases s.strictRefuses n
    · simp
    · rfl
  case sneReg x y n =>
    simp only [exec, execSneReg]
    rw [State.withSchedule_strictRefuses]
    cases s.strictRefuses n
    · simp
    · rfl
  case seImm => simp [exec, execSeImm]
  case sneImm => simp [exec, execSneImm]
  case orReg => simp [exec, execOrReg]
  case andReg => simp [exec, execAndReg]
  case xorReg => simp [exec, execXorReg]
  case drw x y n =>
    simp only [exec, execDrw, State.withSchedule_i, State.withSchedule_memRead]
    cases s.memRead s.i n.toNat <;> rfl
  case skp x =>
    simp only [exec, execSkp, State.withSchedule_digitOperand]
    cases s.digitOperand x
    · rfl
    · simp
  case sknp x =>
    simp only [exec, execSknp, State.withSchedule_digitOperand]
    cases s.digitOperand x
    · rfl
    · simp
  case ldF x =>
    simp only [exec, execLdF, State.withSchedule_digitOperand]
    cases s.digitOperand x <;> rfl
  case ldB x =>
    simp only [exec, execLdB, State.withSchedule_i, State.withSchedule_getV, State.withSchedule_memWrite]
    cases s.memWrite s.i (bcdDigits (s.getV x)) <;> rfl
  case storeRegs x =>
    simp only [exec, execStoreRegs, State.withSchedule_i, State.withSchedule_dumpV, State.withSchedule_memWrite]
    cases s.memWrite s.i (s.dumpV x) with
    | none => rfl
    | some u => exact congrArg (fun t => Host.Outcome.next (State.advance t)) (u.withSchedule_bumpI trs x)
  case loadRegs x =>
    simp only [exec, execLoadRegs, State.withSchedule_i, State.withSchedule_memRead]
    cases s.memRead s.i (x.toNat + 1) with
    | none => rfl
    | some bytes => exact congrArg (fun t => Host.Outcome.next (State.advance t)) ((s.loadV bytes).withSchedule_bumpI trs x)
  all_goals rfl

/-! ## Every transaction -/

theorem fetchDecodeExec_withSchedule :
    fetchDecodeExec (s.withSchedule trs) = mapNext (·.withSchedule trs) (fetchDecodeExec s) := by
  simp only [fetchDecodeExec, State.withSchedule_fetch, exec_withSchedule]
  cases s.fetch with
  | none => rfl
  | some w =>
    dsimp only
    cases decodeWord w <;> rfl

theorem stepCycle_withSchedule :
    stepCycle (s.withSchedule trs) = mapNext (·.withSchedule trs) (stepCycle s) := by
  simp only [stepCycle, State.withSchedule_execState, fetchDecodeExec_withSchedule]
  split
  · cases fetchDecodeExec s <;> rfl
  · rfl

theorem State.tickTimers_withSchedule : (s.withSchedule trs).tickTimers = s.tickTimers.withSchedule trs := by
  rw [State.tickTimers_eq, State.tickTimers_eq, State.withSchedule_execState]
  split <;> rfl

theorem State.setKey_withSchedule (k : Nat) (down : Bool) :
    (s.withSchedule trs).setKey k down = (s.setKey k down).withSchedule trs := by
  by_cases real : k < 16
  · obtain ⟨key, rfl⟩ : ∃ key : Nibble, key.toNat = k := ⟨BitVec.ofNat 4 k, by simpa using real⟩
    rw [State.setKey_eq, State.setKey_eq, State.withSchedule_execState, State.withSchedule_keyDown]
    split <;> rfl
  · simp only [State.setKey_of_gt _ (Nat.not_lt.1 real)]

theorem State.load_withSchedule (rom : List Byte) : (s.withSchedule trs).load rom = (s.load rom).withSchedule trs := by
  unfold State.load
  split <;> rfl

/-- A transaction reads no other one that is still to come, and takes none off the schedule (R74). -/
theorem perform_withSchedule (tr : Transaction) :
    perform (s.withSchedule trs) tr = mapNext (·.withSchedule trs) (perform s tr) := by
  cases tr with
  | load rom => exact congrArg Host.Outcome.next (s.load_withSchedule trs rom)
  | stepCycle => exact stepCycle_withSchedule s trs
  | tickTimers => exact congrArg (fun t => Host.Outcome.next (State.answer t .none)) (s.tickTimers_withSchedule trs)
  | setKey k down => exact congrArg (fun t => Host.Outcome.next (State.answer t .none)) (s.setKey_withSchedule trs k down)
  | snapshot => rfl
  | soundActive => rfl
  | stop => rfl

end

theorem perform_keeps_pending {s t : State} {tr : Transaction} (h : perform s tr = .next t) : t.pending = s.pending := by
  have e := perform_withSchedule s s.pending tr
  rw [show s.withSchedule s.pending = s from rfl, h, mapNext_next, Host.Outcome.next.injEq] at e
  rw [e]
  rfl

/-! ## A next state always -/

theorem exec_answers_next (i : Instr) (s : State) : ∃ t, exec i s = .next t := by
  have h := exec_answers i s
  generalize exec i s = o at h
  cases h <;> exact ⟨_, rfl⟩

theorem fetchDecodeExec_answers_next (s : State) : ∃ t, fetchDecodeExec s = .next t := by
  unfold fetchDecodeExec
  split
  · exact ⟨_, rfl⟩
  · split
    · exact exec_answers_next _ s
    · exact ⟨_, rfl⟩

theorem stepCycle_answers_next (s : State) : ∃ t, stepCycle s = .next t := by
  unfold stepCycle
  split
  · obtain ⟨t, h⟩ := fetchDecodeExec_answers_next s
    exact ⟨_, by rw [h, mapNext_next]⟩
  · exact ⟨_, rfl⟩

/-- Every transaction completes (R239). -/
theorem perform_answers_next (s : State) (tr : Transaction) : ∃ t, perform s tr = .next t := by
  cases tr with
  | stepCycle => exact stepCycle_answers_next s
  | load | tickTimers | setKey | snapshot | soundActive | stop => exact ⟨_, rfl⟩

/-! ## The step -/

theorem step_of_no_pending {s : State} (h : s.pending = []) : step s = perform s .stepCycle := by
  rw [step, performNext, State.nextTransaction_of_nil h]

theorem step_of_pending {s : State} {tr : Transaction} {rest : List Transaction} (h : s.pending = tr :: rest) :
    step s = perform (s.withSchedule rest) tr := by
  rw [step, performNext, State.nextTransaction_of_cons h]
  rfl

/-- Settles O9: the step is `perform`, which answers and commutes with every change of the schedule. -/
theorem stepPerformsNextTransaction : Obligations.StepPerformsNextTransaction := by
  intro s
  refine ⟨step_of_no_pending, fun tr rest h => ?_⟩
  obtain ⟨t, ht⟩ := perform_answers_next (s.withSchedule rest) tr
  refine ⟨t, (step_of_pending h).trans ht, ht, perform_keeps_pending ht, fun other => ?_⟩
  calc step { s with pending := tr :: other }
      = perform ((s.withSchedule rest).withSchedule other) tr := step_of_pending rfl
    _ = mapNext (·.withSchedule other) (perform (s.withSchedule rest) tr) := perform_withSchedule _ other tr
    _ = .next { t with pending := other } := by rw [ht]; rfl

end Sys2Proof.Machine
end

section
/-! SUPPORT. Decoder and encoder agree (30_encoding.md R94, R95, R98): the word of a well-formed instruction decodes to it,
and a word that decodes is the word of a well-formed instruction. -/

namespace Sys2Proof

/-! ## The two words that are CLS and RET and never SYS (R98) -/

theorem sysOperandOk_iff {nnn : Addr12} : sysOperandOk nnn = true ↔ nnn ≠ 0x0E0#12 ∧ nnn ≠ 0x0EE#12 := by
  simp [sysOperandOk]

theorem formA_inj {a : Nibble} {nnn nnn' : Addr12} (h : formA a nnn = formA a nnn') : nnn = nnn' := by
  simpa using congrArg low12 h

theorem decodeWord_sys {nnn : Addr12} (h : sysOperandOk nnn = true) : decodeWord (formA 0#4 nnn) = .ok (.sys nnn) := by
  obtain ⟨notCls, notRet⟩ := sysOperandOk_iff.1 h
  have hc : formA 0#4 nnn ≠ 0x00E0#16 := fun e => notCls (formA_inj (a := 0#4) e)
  have hr : formA 0#4 nnn ≠ 0x00EE#16 := fun e => notRet (formA_inj (a := 0#4) e)
  simp [decodeWord, hc, hr]

/-- Settles O1: the decoder reads the fields that the encoder wrote, and `SYS` is the one row with words that are others'. -/
theorem decodeOfEncode : Obligations.DecodeOfEncode := by
  intro i wf
  cases i with
  | sys nnn => exact decodeWord_sys wf
  | cls | ret => rfl
  | _ => simp [encode, decodeWord]

theorem wellFormed_of_decodeWord {w : Word} {i : Instr} (h : decodeWord w = .ok i) : i.wellFormed = true := by
  obtain rfl := encode_of_decodeWord h
  cases i with
  | sys nnn =>
    refine sysOperandOk_iff.2 ⟨?_, ?_⟩
    · rintro rfl; exact absurd h (by decide)
    · rintro rfl; exact absurd h (by decide)
  | _ => rfl

/-- Settles O2: decoding drops no bit, and a word is the word of its two bytes. -/
theorem encodeOfDecode : Obligations.EncodeOfDecode := by
  intro w i rest h
  have hb : decodeBytes (highByte w :: lowByte w :: rest) = .ok (i, rest) := by
    rw [decodeBytes, wordOfBytes_fields, h]; rfl
  exact ⟨encode_of_decodeWord h, wellFormed_of_decodeWord h, hb⟩

end Sys2Proof
end

section
/-! SUPPORT. Which words decode, and to which row (30_encoding.md R95, R96). -/

namespace Sys2Proof

variable {w : Word} {i : Instr}

/-! ## A word that matches a row is the word of an instruction of that row -/

theorem toNat_nib3_of_row {a : Nibble} (h : w &&& 0xF000#16 = a ++ 0#12) : (nib3 w).toNat = a.toNat := by
  have e := congrArg BitVec.toNat ((mask_top w).symm.trans h)
  simp only [toNat_append_eq] at e
  omega

theorem formA_of_row {a : Nibble} (h : w &&& 0xF000#16 = a ++ 0#12) : formA a (low12 w) = w :=
  formA_low12_of_top (toNat_nib3_of_row h)

theorem formI_of_row {a : Nibble} (h : w &&& 0xF000#16 = a ++ 0#12) : formI a (nib2 w) (lowByte w) = w :=
  formI_nib2_of_ends (toNat_nib3_of_row h) rfl

theorem ofNibbles_of_row {a : Nibble} (h : w &&& 0xF000#16 = a ++ 0#12) :
    ofNibbles a (nib2 w) (nib1 w) (nib0 w) = w :=
  ofNibbles_middle_of_ends (toNat_nib3_of_row h) rfl

theorem formR_of_row {a d : Nibble} (h : w &&& 0xF00F#16 = a ++ 0#8 ++ d) : ofNibbles a (nib2 w) (nib1 w) d = w := by
  have e := congrArg BitVec.toNat ((mask_low w).symm.trans h)
  simp only [toNat_append_eq] at e
  exact ofNibbles_middle_of_ends (by omega) (by omega)

theorem formX_of_row {a : Nibble} {nn : Byte} (h : w &&& 0xF0FF#16 = a ++ 0#4 ++ nn) : formI a (nib2 w) nn = w := by
  have e := congrArg BitVec.toNat ((mask_byte w).symm.trans h)
  simp only [toNat_append_eq] at e
  exact formI_nib2_of_ends (by omega) (by omega)

/-- The instruction of `i`'s row whose operands are the fields of `w` (R91, R92). -/
def Instr.withFieldsOf (w : Word) : Instr → Instr
  | .cls => .cls
  | .ret => .ret
  | .sys _ => .sys (low12 w)
  | .jp _ => .jp (low12 w)
  | .call _ => .call (low12 w)
  | .seImm _ _ => .seImm (nib2 w) (lowByte w)
  | .sneImm _ _ => .sneImm (nib2 w) (lowByte w)
  | .seReg _ _ _ => .seReg (nib2 w) (nib1 w) (nib0 w)
  | .ldImm _ _ => .ldImm (nib2 w) (lowByte w)
  | .addImm _ _ => .addImm (nib2 w) (lowByte w)
  | .ldReg _ _ => .ldReg (nib2 w) (nib1 w)
  | .orReg _ _ => .orReg (nib2 w) (nib1 w)
  | .andReg _ _ => .andReg (nib2 w) (nib1 w)
  | .xorReg _ _ => .xorReg (nib2 w) (nib1 w)
  | .addReg _ _ => .addReg (nib2 w) (nib1 w)
  | .subReg _ _ => .subReg (nib2 w) (nib1 w)
  | .shr _ _ => .shr (nib2 w) (nib1 w)
  | .subn _ _ => .subn (nib2 w) (nib1 w)
  | .shl _ _ => .shl (nib2 w) (nib1 w)
  | .sneReg _ _ _ => .sneReg (nib2 w) (nib1 w) (nib0 w)
  | .ldI _ => .ldI (low12 w)
  | .jpV0 _ => .jpV0 (low12 w)
  | .rnd _ _ => .rnd (nib2 w) (lowByte w)
  | .drw _ _ _ => .drw (nib2 w) (nib1 w) (nib0 w)
  | .skp _ => .skp (nib2 w)
  | .sknp _ => .sknp (nib2 w)
  | .ldVxDt _ => .ldVxDt (nib2 w)
  | .ldVxK _ => .ldVxK (nib2 w)
  | .ldDtVx _ => .ldDtVx (nib2 w)
  | .ldStVx _ => .ldStVx (nib2 w)
  | .addI _ => .addI (nib2 w)
  | .ldF _ => .ldF (nib2 w)
  | .ldB _ => .ldB (nib2 w)
  | .storeRegs _ => .storeRegs (nib2 w)
  | .loadRegs _ => .loadRegs (nib2 w)

@[simp] theorem Instr.withFieldsOf_rowMask (w : Word) (i : Instr) : (i.withFieldsOf w).rowMask = i.rowMask := by
  cases i <;> rfl

@[simp] theorem Instr.withFieldsOf_rowBits (w : Word) (i : Instr) : (i.withFieldsOf w).rowBits = i.rowBits := by
  cases i <;> rfl

theorem Instr.encode_withFieldsOf (h : w &&& i.rowMask = i.rowBits) : encode (i.withFieldsOf w) = w := by
  cases i with
  | cls | ret => exact h.symm.trans (BitVec.and_allOnes (x := w))
  | sys | jp | call | ldI | jpV0 => exact formA_of_row h
  | seImm | sneImm | ldImm | addImm | rnd => exact formI_of_row h
  | seReg | sneReg | drw => exact ofNibbles_of_row h
  | ldReg | orReg | andReg | xorReg | addReg | subReg | shr | subn | shl => exact formR_of_row h
  | _ => exact formX_of_row h

/-! ## The row of the decoded instruction (R95) -/

theorem Instr.eq_sys_of_not_wellFormed (h : ¬ i.wellFormed = true) : i = .sys 0x0E0#12 ∨ i = .sys 0x0EE#12 := by
  cases i with
  | sys nnn => simpa [Instr.wellFormed, sysOperandOk_iff, or_iff_not_imp_left] using h
  | _ => exact absurd rfl h

theorem Instr.withFieldsOf_eq_sys {nnn : Addr12} (h : i.withFieldsOf w = .sys nnn) : ∃ nnn', i = .sys nnn' := by
  cases i with
  | sys nnn' => exact ⟨nnn', rfl⟩
  | _ => cases h

/-- Settles O4: the word is that of an instruction of the row, which is what it decodes to, unless that is `SYS` with an
operand that makes the word CLS's or RET's. -/
theorem firstMatchingRowWins : Obligations.FirstMatchingRowWins := by
  intro w j row
  have word := Instr.encode_withFieldsOf row
  by_cases wf : (j.withFieldsOf w).wellFormed = true
  · exact ⟨_, word ▸ decodeOfEncode _ wf, by simpa using row, .inl (by simp)⟩
  · rcases Instr.eq_sys_of_not_wellFormed wf with isCls | isRet
    · obtain rfl : 0x00E0#16 = w := by rw [← word, isCls]; rfl
      exact ⟨.cls, rfl, rfl, .inr ⟨.inl rfl, Instr.withFieldsOf_eq_sys isCls⟩⟩
    · obtain rfl : 0x00EE#16 = w := by rw [← word, isRet]; rfl
      exact ⟨.ret, rfl, rfl, .inr ⟨.inr rfl, Instr.withFieldsOf_eq_sys isRet⟩⟩

/-! ## The words of no row (R96) -/

/-- The three families of R96. -/
def IllegalWord (w : Word) : Prop :=
  (nib3 w = 0x8 ∧ nib0 w ∈ [0x8#4, 0x9#4, 0xA#4, 0xB#4, 0xC#4, 0xD#4, 0xF#4]) ∨
  (nib3 w = 0xE ∧ lowByte w ∉ [0x9E#8, 0xA1#8]) ∨
  (nib3 w = 0xF ∧ lowByte w ∉ [0x07#8, 0x0A#8, 0x15#8, 0x18#8, 0x1E#8, 0x29#8, 0x33#8, 0x55#8, 0x65#8])

/-- The fields of an encoded word are the table's own. -/
theorem not_illegalWord_encode (i : Instr) : ¬ IllegalWord (encode i) := by
  unfold IllegalWord
  cases i with
  | cls | ret => decide
  | _ => simp [encode]

/-- The cases are the top nibbles of R94; three of them can refuse, each for the values that its inner
match does not name. -/
theorem illegalWord_of_decodeWord_error {e : DecodeError} (h : decodeWord w = .error e) : IllegalWord w := by
  unfold decodeWord at h
  dsimp only at h
  split at h
  case h_1 =>
    split at h
    · cases h
    · split at h <;> cases h
  case h_9 top =>
    refine .inl ⟨BitVec.eq_of_toNat_eq top, ?_⟩
    split at h
    case h_10 =>
      simp only [imp_false, List.mem_cons, List.not_mem_nil, ← BitVec.toNat_inj, BitVec.toNat_ofNat] at *
      omega
    all_goals cases h
  case h_15 top =>
    refine .inr (.inl ⟨BitVec.eq_of_toNat_eq top, fun legal => ?_⟩)
    simp only [List.mem_cons, List.not_mem_nil, or_false] at legal
    rcases legal with byte | byte <;> simp [byte] at h
  case h_16 top =>
    refine .inr (.inr ⟨BitVec.eq_of_toNat_eq top, fun legal => ?_⟩)
    simp only [List.mem_cons, List.not_mem_nil, or_false] at legal
    rcases legal with byte | byte | byte | byte | byte | byte | byte | byte | byte <;> simp [byte] at h
  case h_17 => simp only [imp_false] at *; omega
  all_goals cases h

/-- Settles O3: a refused word is in one of the families, and a word that decodes is an encoded one, which is in none. -/
theorem illegalWordsExactly : Obligations.IllegalWordsExactly := by
  refine fun w => ⟨illegalWord_of_decodeWord_error, fun illegal => ?_⟩
  cases h : decodeWord w with
  | error e => rw [Machine.decodeWord_error h]
  | ok i => exact absurd (encode_of_decodeWord h ▸ illegal) (not_illegalWord_encode i)

/-! ## Words of the spec's vectors -/

/-- Settles O5: the decoder runs on each of the nine words. -/
theorem sampleWordsDecode : Obligations.SampleWordsDecode :=
  ⟨rfl, rfl, rfl, rfl, rfl, rfl, rfl, rfl, rfl⟩

end Sys2Proof
end

section
/-! SUPPORT. Control transfer: what a jump, a skip and a taken fault leave unchanged, and every outcome of the instructions
of 40_flow.md (R121 to R129). -/

namespace Sys2Proof.Machine

variable (s : State)

/-! ## Frames -/

theorem State.sameBut_setPc (w : Word) : SameBut [.pc] s (s.setPc w) := by
  intro p hp
  cases p <;> simp_all [SamePart]

/-- `advance` is a `setPc` (R120). -/
theorem State.sameBut_advance : SameBut [.pc] s s.advance := s.sameBut_setPc _

/-- A skip moves `pc` alone, whichever way it goes (R120). -/
theorem State.sameBut_skipIf (c : Bool) : SameBut [.pc] s (s.skipIf c) := by
  cases c
  · exact s.sameBut_advance
  · exact s.sameBut_setPc _

/-- Another call stack and another `pc`: what `CALL` and `RET` leave (R122, R124). -/
theorem State.sameBut_setPc_withStack (addrs : List Word) (w : Word) :
    SameBut [.stack, .pc] s (({ s with stack := addrs } : State).setPc w) := by
  intro p hp
  cases p <;> simp_all [SamePart, State.getV, State.byteAt]

/-- An outcome by which the instruction takes its fault is a precise fault (R228). -/
theorem faultsWith_of_eq_raiseAt {s : State} {o : Host.Outcome State Fault Refusal} {k : FaultKind} {i : Instr}
    (h : o = .next (s.raiseAt k i)) : ∃ t, o = .next t ∧ FaultsWith s t k (some (encode i)) :=
  ⟨_, h, faultsWith_raiseAt s k i⟩

/-! ## Where a skip goes -/

theorem State.pc_skipIf_beq (a b : Byte) : (s.skipIf (a == b)).pc = if a = b then s.pc + 4 else s.pc + 2 := by
  rw [State.skipIf_pc]
  simp only [beq_iff_eq]

theorem State.pc_skipIf_bne (a b : Byte) : (s.skipIf (a != b)).pc = if a = b then s.pc + 2 else s.pc + 4 := by
  rw [State.skipIf_pc]
  simp only [bne_iff_ne, ite_not]

/-- An outcome that skips on equal (R125, R127). -/
theorem skips_of_eq_skipIf_beq {s : State} {o : Host.Outcome State Fault Refusal} {a b : Byte}
    (h : o = .next (s.skipIf (a == b))) :
    ∃ t, o = .next t ∧ SameBut [.pc] s t ∧ t.pc = if a = b then s.pc + 4 else s.pc + 2 :=
  ⟨_, h, s.sameBut_skipIf _, s.pc_skipIf_beq a b⟩

/-- An outcome that skips on unequal (R126, R128). -/
theorem skips_of_eq_skipIf_bne {s : State} {o : Host.Outcome State Fault Refusal} {a b : Byte}
    (h : o = .next (s.skipIf (a != b))) :
    ∃ t, o = .next t ∧ SameBut [.pc] s t ∧ t.pc = if a = b then s.pc + 2 else s.pc + 4 :=
  ⟨_, h, s.sameBut_skipIf _, s.pc_skipIf_bne a b⟩

/-! ## The outcomes of each instruction that can fault -/

variable {s} {t : State} {nnn : Addr12} {a : Word} {x y n : Nibble}

theorem exec_sys_of_sysNop (h : s.config.sysNop = true) : exec (.sys nnn) s = .next s.advance := if_pos h

theorem exec_sys_of_not_sysNop (h : ¬s.config.sysNop = true) :
    exec (.sys nnn) s = .next (s.raiseAt .unknownOpcode (.sys nnn)) := if_neg h

theorem exec_ret_of_pop (h : s.pop = some (a, t)) : exec .ret s = .next (t.setPc a) := by
  simp only [exec, execRet, h]

theorem exec_ret_of_no_pop (h : s.pop = none) : exec .ret s = .next (s.raiseAt .stackUnderflow .ret) := by
  simp only [exec, execRet, h]

theorem exec_call_of_push (h : s.push (s.pc + 2) = some t) : exec (.call nnn) s = .next (t.setPc nnn.zext) := by
  simp only [exec, execCall, h]

theorem exec_call_of_no_push (h : s.push (s.pc + 2) = none) :
    exec (.call nnn) s = .next (s.raiseAt .stackOverflow (.call nnn)) := by
  simp only [exec, execCall, h]

/-- A nonzero low nibble is refused exactly with Q_STRICT_5_9 (R97). -/
theorem State.strictRefuses_iff : s.strictRefuses n = true ↔ s.config.strict59 = true ∧ n ≠ 0 := by
  simp [State.strictRefuses]

theorem exec_seReg_of_strictRefuses (h : s.strictRefuses n = true) :
    exec (.seReg x y n) s = .next (s.raiseAt .unknownOpcode (.seReg x y n)) := if_pos h

theorem exec_seReg_of_not_strictRefuses (h : ¬s.strictRefuses n = true) :
    exec (.seReg x y n) s = .next (s.skipIf (s.getV x == s.getV y)) := if_neg h

theorem exec_sneReg_of_strictRefuses (h : s.strictRefuses n = true) :
    exec (.sneReg x y n) s = .next (s.raiseAt .unknownOpcode (.sneReg x y n)) := if_pos h

theorem exec_sneReg_of_not_strictRefuses (h : ¬s.strictRefuses n = true) :
    exec (.sneReg x y n) s = .next (s.skipIf (s.getV x != s.getV y)) := if_neg h

/-- The major opcode of `SYS` is 0, so its word is its operand (R121). -/
theorem toNat_encode_sys (nnn : Addr12) : (encode (.sys nnn)).toNat = nnn.toNat := by
  simp [encode, toNat_formA]

end Sys2Proof.Machine
end

section
/-! SUPPORT. The statements about control transfer (40_flow.md R121 to R129). -/

namespace Sys2Proof.Machine

/-- Settles O10, by the two values of Q_SYS_NOP. -/
theorem sysFaults : Obligations.SysFaults := by
  intro nnn s
  by_cases nop : s.config.sysNop = true
  · simp only [if_pos nop]
    exact ⟨_, exec_sys_of_sysNop nop, rfl, s.sameBut_advance⟩
  · simp only [if_neg nop]
    exact ⟨_, exec_sys_of_not_sysNop nop, faultsWith_raiseAt s _ _, toNat_encode_sys nnn⟩

/-- Settles O11: the stack has a newest entry, or it is empty. -/
theorem retPopsReturnAddress : Obligations.RetPopsReturnAddress := by
  intro s
  constructor
  · intro older a stack
    exact ⟨_, exec_ret_of_pop (State.pop_of_stack stack), rfl, rfl, s.sameBut_setPc_withStack older a⟩
  · intro empty
    exact faultsWith_of_eq_raiseAt (exec_ret_of_no_pop (s.pop_eq_none.2 (List.length_eq_zero_iff.1 empty)))

/-- Settles O12: both jumps are a `setPc`, and the two targets do not wrap. -/
theorem jumpTargets : Obligations.JumpTargets := fun nnn s =>
  ⟨⟨_, rfl, toNat_zext_addr nnn, s.sameBut_setPc _⟩,
    ⟨_, rfl, s.toNat_indexedTarget nnn, s.toNat_indexedTarget_le nnn, s.sameBut_setPc _⟩⟩

/-- Settles O13: the push finds room, or the stack is full. -/
theorem callPushesReturnAddress : Obligations.CallPushesReturnAddress := by
  intro nnn s
  constructor
  · intro room
    have pushed := (s.push_eq_some _ (s.pc + 2)).2 ⟨room, rfl⟩
    exact ⟨_, exec_call_of_push pushed, rfl, by simp [State.sp], toNat_zext_addr nnn, s.sameBut_setPc_withStack _ _⟩
  · intro full
    exact faultsWith_of_eq_raiseAt (exec_call_of_no_push ((s.push_eq_none _).2 full.ge))

/-- Settles O14: each of the two is a skip on a comparison with the immediate. -/
theorem skipsOnImmediate : Obligations.SkipsOnImmediate := fun _ _ _ =>
  ⟨skips_of_eq_skipIf_beq rfl, skips_of_eq_skipIf_bne rfl⟩

/-- Settles O15, by whether the low nibble is refused. -/
theorem skipsOnRegisters : Obligations.SkipsOnRegisters := by
  intro x y n s
  constructor
  · intro allowed
    have taken : ¬s.strictRefuses n = true := by
      rw [State.strictRefuses_iff, not_and_or, Bool.not_eq_true, not_not]
      exact allowed
    exact ⟨skips_of_eq_skipIf_beq (exec_seReg_of_not_strictRefuses taken),
      skips_of_eq_skipIf_bne (exec_sneReg_of_not_strictRefuses taken)⟩
  · intro strict nonzero
    have refused : s.strictRefuses n = true := State.strictRefuses_iff.2 ⟨strict, nonzero⟩
    exact ⟨faultsWith_of_eq_raiseAt (exec_seReg_of_strictRefuses refused),
      faultsWith_of_eq_raiseAt (exec_sneReg_of_strictRefuses refused)⟩

end Sys2Proof.Machine
end

section
/-! SUPPORT. What the three ways of writing a result leave: into `V[x]` alone, with a flag, and for a logic instruction; and
the results and flags as numbers (41_alu.md R140 to R153). -/

namespace Sys2Proof.Machine

variable (s : State)

/-! ## Frames -/

theorem State.sameBut_setV (x : Nibble) (b : Byte) : SameBut [.v] s (s.setV x b) := by
  intro p hp
  cases p <;> simp_all [SamePart]

/-- A step that writes registers and then goes to the next instruction (R120). -/
theorem State.sameBut_advance_of_regs {s t : State} (h : SameBut [.v] s t) : SameBut [.v, .pc] s t.advance :=
  (h.mono (by decide)).trans (t.sameBut_advance.mono (by decide))

theorem State.regsBut_setV (x : Nibble) (b : Byte) : RegsBut [x] s (s.setV x b) :=
  fun _ hr => s.getV_setV_of_ne b (List.ne_of_not_mem_cons hr)

theorem State.sameBut_writeWithFlag (x : Nibble) (b : Byte) (f : Bool) : SameBut [.v, .pc] s (s.writeWithFlag x b f) :=
  State.sameBut_advance_of_regs ((s.sameBut_setV x b).trans ((s.setV x b).sameBut_setV 15#4 (flagByte f)))

theorem State.regsBut_writeWithFlag (x : Nibble) (b : Byte) (f : Bool) : RegsBut [x, 15#4] s (s.writeWithFlag x b f) := by
  intro r hr
  obtain ⟨notX, notVf⟩ : r ≠ x ∧ r ≠ 15#4 := by simpa using hr
  rw [State.getV_writeWithFlag, if_neg notVf, if_neg notX]

theorem State.sameBut_writeLogic (x : Nibble) (b : Byte) : SameBut [.v, .pc] s (s.writeLogic x b) := by
  apply State.sameBut_advance_of_regs
  split
  · exact (s.sameBut_setV x b).trans ((s.setV x b).sameBut_setV 15#4 0)
  · exact s.sameBut_setV x b

theorem State.regsBut_writeLogic (x : Nibble) (b : Byte) : RegsBut [x, 15#4] s (s.writeLogic x b) := by
  intro r hr
  obtain ⟨notX, notVf⟩ : r ≠ x ∧ r ≠ 15#4 := by simpa using hr
  rw [State.getV_writeLogic, if_neg (fun vf => notVf vf.1), if_neg notX]

/-- The draw count alone (R10; log 6). -/
theorem State.sameBut_draw : SameBut [.draws] s s.draw.2 := by
  intro p hp
  cases p <;> simp_all [SamePart, State.draw, State.getV, State.byteAt]

/-! ## What the destination and VF hold -/

theorem State.getV_writeWithFlag_of_ne {x : Nibble} (b : Byte) (f : Bool) (h : x ≠ 15#4) :
    (s.writeWithFlag x b f).getV x = b := by
  rw [State.getV_writeWithFlag, if_neg h, if_pos rfl]

theorem State.getV_writeWithFlag_vf (x : Nibble) (b : Byte) (f : Bool) :
    (s.writeWithFlag x b f).getV 15#4 = flagByte f := by
  rw [State.getV_writeWithFlag, if_pos rfl]

/-- With Q_LOGIC_RESETS_VF the reset comes after the result, so it is what remains in VF (R143, D8). -/
theorem State.getLsbD_getV_writeLogic (x : Nibble) (b : Byte) (k : Nat) :
    ((s.writeLogic x b).getV x).getLsbD k =
      if s.config.logicResetsVf ∧ x = 15#4 then false else b.getLsbD k := by
  rw [State.getV_writeLogic, if_pos rfl]
  by_cases reset : s.config.logicResetsVf ∧ x = 15#4
  · rw [if_pos reset, if_pos reset.symm]
    exact BitVec.getLsbD_zero
  · rw [if_neg reset, if_neg (mt And.symm reset)]

theorem State.getV_writeLogic_vf_of_ne {x : Nibble} (b : Byte) (h : x ≠ 15#4) :
    (s.writeLogic x b).getV 15#4 = if s.config.logicResetsVf then 0 else s.getV 15#4 := by
  rw [State.getV_writeLogic, if_neg h.symm]
  simp only [true_and]

/-! ## Results and flags as numbers -/

theorem toNat_sub_byte (a b : Byte) : (a - b).toNat = (a.toNat + 256 - b.toNat) % 256 := by
  rw [BitVec.toNat_sub]
  omega

theorem toNat_shiftRight_one (a : Byte) : (a >>> 1).toNat = a.toNat / 2 := by
  rw [BitVec.toNat_ushiftRight, Nat.shiftRight_one]

theorem toNat_shiftLeft_one (a : Byte) : (a <<< 1).toNat = 2 * a.toNat % 256 := by
  rw [BitVec.toNat_shiftLeft, Nat.shiftLeft_eq]
  omega

theorem flagByte_decide (p : Prop) [Decidable p] : flagByte (decide p) = if p then 1 else 0 := by
  simp [flagByte]

theorem toNat_flagByte (f : Bool) : (flagByte f).toNat = f.toNat := by cases f <;> rfl

theorem toNat_bitOutRight (a : Byte) : (bitOutRight a).toNat = a.toNat % 2 := by
  rw [bitOutRight, BitVec.getLsbD, Nat.toNat_testBit]
  omega

theorem toNat_bitOutLeft (a : Byte) : (bitOutLeft a).toNat = a.toNat / 128 := by
  rw [bitOutLeft, BitVec.getLsbD, Nat.toNat_testBit]
  omega

/-! ## Outcomes -/

variable {s} {o : Host.Outcome State Fault Refusal} {x : Nibble} {b : Byte} {f : Bool}

/-- An outcome that writes `V[x]` and no flag (R140 to R142). -/
theorem writes_of_eq_setV {n : Nat} (h : o = .next (s.setV x b).advance) (result : b.toNat = n) :
    ∃ t, o = .next t ∧ (t.getV x).toNat = n ∧ RegsBut [x] s t ∧ t.pc = s.pc + 2 ∧ SameBut [.v, .pc] s t :=
  ⟨_, h, by simpa using result, s.regsBut_setV x b, rfl, State.sameBut_advance_of_regs (s.sameBut_setV x b)⟩

/-- An outcome that writes a logic result whose bits are those of `op` (R143 to R145). -/
theorem writes_of_eq_writeLogic {op : Bool → Bool → Bool} {c d : Byte} (h : o = .next (s.writeLogic x b))
    (bits : ∀ k, b.getLsbD k = op (c.getLsbD k) (d.getLsbD k)) :
    ∃ t, o = .next t ∧
      (∀ k < 8, (t.getV x).getLsbD k =
        if s.config.logicResetsVf ∧ x = 15#4 then false else op (c.getLsbD k) (d.getLsbD k)) ∧
      (x ≠ 15#4 → t.getV 15#4 = if s.config.logicResetsVf then 0 else s.getV 15#4) ∧
      RegsBut [x, 15#4] s t ∧ t.pc = s.pc + 2 ∧ SameBut [.v, .pc] s t :=
  ⟨_, h, fun k _ => by rw [State.getLsbD_getV_writeLogic, bits], s.getV_writeLogic_vf_of_ne b, s.regsBut_writeLogic x b,
    s.writeLogic_pc x b, s.sameBut_writeLogic x b⟩

/-- An outcome that writes a result and a flag; what VF holds is the flag, also when it is `V[x]` (R152). -/
theorem writes_of_eq_writeWithFlag {n : Nat} {c : Byte} (h : o = .next (s.writeWithFlag x b f)) (result : b.toNat = n)
    (flag : flagByte f = c) :
    ∃ t, o = .next t ∧ (x ≠ 15#4 → (t.getV x).toNat = n) ∧ t.getV 15#4 = c ∧
      RegsBut [x, 15#4] s t ∧ t.pc = s.pc + 2 ∧ SameBut [.v, .pc] s t :=
  ⟨_, h, fun notVf => by rw [s.getV_writeWithFlag_of_ne b f notVf, result], by rw [State.getV_writeWithFlag_vf, flag],
    s.regsBut_writeWithFlag x b f, rfl, s.sameBut_writeWithFlag x b f⟩

/-- An outcome that writes a result and a bit moved out (R148, R150). -/
theorem writes_of_eq_writeWithFlag_bit {n m : Nat} (h : o = .next (s.writeWithFlag x b f)) (result : b.toNat = n)
    (bit : f.toNat = m) :
    ∃ t, o = .next t ∧ (x ≠ 15#4 → (t.getV x).toNat = n) ∧ (t.getV 15#4).toNat = m ∧
      RegsBut [x, 15#4] s t ∧ t.pc = s.pc + 2 ∧ SameBut [.v, .pc] s t :=
  have ⟨t, next, value, flag, frame⟩ := writes_of_eq_writeWithFlag h result rfl
  ⟨t, next, value, by rw [flag, toNat_flagByte, bit], frame⟩

end Sys2Proof.Machine
end

section
/-! SUPPORT. The statements about registers and arithmetic (41_alu.md R140 to R152). -/

namespace Sys2Proof.Machine

/-- Settles O16: each of the three writes one byte into `V[x]`. -/
theorem loadsAndAddImmediate : Obligations.LoadsAndAddImmediate := by
  intro x y nn s
  simp only [List.forall_mem_cons]
  exact ⟨writes_of_eq_setV rfl rfl, writes_of_eq_setV rfl (BitVec.toNat_add ..), writes_of_eq_setV rfl rfl,
    List.forall_mem_nil _⟩

/-- Settles O17: each of the three is a logic result, and the bits of its byte are those of the Boolean operation. -/
theorem logicResults : Obligations.LogicResults := by
  intro x y s
  simp only [List.forall_mem_cons]
  exact ⟨writes_of_eq_writeLogic rfl fun _ => BitVec.getLsbD_or, writes_of_eq_writeLogic rfl fun _ => BitVec.getLsbD_and,
    writes_of_eq_writeLogic rfl fun _ => BitVec.getLsbD_xor, List.forall_mem_nil _⟩

/-- Settles O18: the sum and its carry are taken from the operands before the write. -/
theorem addSetsCarry : Obligations.AddSetsCarry := fun _ _ _ =>
  writes_of_eq_writeWithFlag rfl (BitVec.toNat_add ..) (flagByte_decide _)

/-- Settles O19: the two differ in the order of the operands alone. -/
theorem subtractionsSetNoBorrow : Obligations.SubtractionsSetNoBorrow := by
  intro x y s
  simp only [List.forall_mem_cons]
  exact ⟨writes_of_eq_writeWithFlag rfl (toNat_sub_byte ..) (flagByte_decide _),
    writes_of_eq_writeWithFlag rfl (toNat_sub_byte ..) (flagByte_decide _), List.forall_mem_nil _⟩

/-- Settles O20: the operand is the one Q_SHIFT_VY selects, and the flag is its lowest or highest bit. -/
theorem shiftsSetBitOut : Obligations.ShiftsSetBitOut := fun _ _ _ =>
  ⟨writes_of_eq_writeWithFlag_bit rfl (toNat_shiftRight_one _) (toNat_bitOutRight _),
    writes_of_eq_writeWithFlag_bit rfl (toNat_shiftLeft_one _) (toNat_bitOutLeft _)⟩

/-- Settles O21: the draw moves its counter alone, then `V[x]` takes the masked byte. -/
theorem randomIsMasked : Obligations.RandomIsMasked := by
  intro x nn s
  have written := State.getV_setV_same s.draw.2 x (Config.draw8 s.draws &&& nn)
  have masked : Config.draw8 s.draws &&& nn &&& ~~~nn = 0 := by
    rw [BitVec.and_assoc, BitVec.and_not_self]
    exact BitVec.and_zero
  exact ⟨_, rfl, written, written.symm ▸ masked, rfl, s.draw.2.regsBut_setV x _, rfl,
    (s.sameBut_draw.mono (by decide)).trans
      ((State.sameBut_advance_of_regs (s.draw.2.sameBut_setV x _)).mono (by decide))⟩

end Sys2Proof.Machine
end

section
/-! SUPPORT. The index register, and the stores and loads of memory at it: what each leaves unchanged, and every outcome of
the instructions of 42_index_memory.md (R170 to R176). -/

namespace Sys2Proof.Machine

variable {s t : State} {o : Host.Outcome State Fault Refusal} {x d : Nibble}

/-! ## Frames -/

theorem State.sameBut_setI (s : State) (w : Word) : SameBut [.i] s (s.setI w) := by
  intro p hp
  cases p <;> simp_all [SamePart]

theorem State.sameBut_loadV (s : State) (bs : List Byte) : SameBut [.v] s (s.loadV bs) := by
  intro p hp
  cases p <;> simp_all [SamePart]

/-- A step that writes one part and then goes to the next instruction (R120). -/
theorem State.sameBut_advance_of_part {p : Part} (h : SameBut [p] s t) : SameBut [p, .pc] s t.advance :=
  (h.mono (by simp)).trans (t.sameBut_advance.mono (by simp))

/-- A transfer between one part and another, after which `I` may move (R174, R175). -/
theorem State.sameBut_bumpI_advance {p : Part} (h : SameBut [p] s t) (x : Nibble) :
    SameBut [p, .i, .pc] s (t.bumpI x).advance :=
  (h.mono (by simp)).trans
    (((t.sameBut_bumpI x).mono (by simp)).trans ((t.bumpI x).sameBut_advance.mono (by simp)))

/-- What becomes of `I` is settled by the state before the transfer, which changes neither it nor the switch. -/
theorem State.toNat_i_bumpI_advance {p : Part} (h : SameBut [p] s t) (hi : p ≠ .i) (hc : p ≠ .config)
    (fits : s.i.toNat + x.toNat ≤ 4095) :
    (t.bumpI x).advance.i.toNat = if s.config.loadStoreIncI then s.i.toNat + x.toNat + 1 else s.i.toNat := by
  have index : t.i = s.i := h .i (by simpa using hi.symm)
  have config : t.config = s.config := h .config (by simpa using hc.symm)
  rw [State.advance_i, State.toNat_i_bumpI _ _ (by rwa [index]), index, config]

/-! ## The index register alone -/

/-- An outcome that writes `I` (R170, R171, R172). -/
theorem writes_of_eq_setI {w : Word} {n : Nat} (h : o = .next (s.setI w).advance) (result : w.toNat = n) :
    ∃ t, o = .next t ∧ t.i.toNat = n ∧ t.pc = s.pc + 2 ∧ SameBut [.i, .pc] s t :=
  ⟨_, h, result, rfl, State.sameBut_advance_of_part (s.sameBut_setI w)⟩

theorem toNat_add_zext_byte (w : Word) (b : Byte) : (w + b.zext).toNat = (w.toNat + b.toNat) % 65536 := by
  rw [BitVec.toNat_add, toNat_zext_byte]

theorem exec_ldF_of_digit (h : s.digitOperand x = some d) :
    exec (.ldF x) s = .next (s.setI (glyphAddr s.config d)).advance := by
  simp only [exec, execLdF, h]

theorem exec_ldF_of_no_digit (h : s.digitOperand x = none) :
    exec (.ldF x) s = .next (s.raiseAt .invalidOperand (.ldF x)) := by
  simp only [exec, execLdF, h]

/-! ## Stores -/

/-- A range of at least one byte that ends above memory is out of bounds for a write (R65). -/
theorem State.memWrite_eq_none_of_length {addr : Word} {bs : List Byte} {n : Nat} (length : bs.length = n + 1)
    (out : 4095 < addr.toNat + n) : s.memWrite addr bs = none :=
  (s.memWrite_eq_none addr bs).2 (by rw [length, memSize]; omega)

/-- A range of at least one byte that ends inside memory is written (R65). -/
theorem State.exists_memWrite_of_length (s : State) {addr : Word} {bs : List Byte} {n : Nat} (length : bs.length = n + 1)
    (fits : addr.toNat + n ≤ 4095) : ∃ t, s.memWrite addr bs = some t :=
  ⟨_, (s.memWrite_eq_some _ addr bs).2 ⟨.inr (by rw [length, memSize]; omega), rfl⟩⟩

theorem State.byteAt_of_memWrite_inside {addr : Word} {bs : List Byte} {k : Nat} {b : Byte}
    (wf : Memory.wf s.config s.mem) (h : s.memWrite addr bs = some t) (hb : bs[k]? = some b) :
    t.byteAt (addr.toNat + k) = b := by
  have inside := (List.getElem?_eq_some_iff.1 hb).1
  exact Option.some.inj ((State.getElem?_of_memWrite wf h inside).symm.trans hb)

theorem State.pc_of_memWrite {addr : Word} {bs : List Byte} (h : s.memWrite addr bs = some t) : t.pc = s.pc :=
  State.sameBut_memWrite h .pc (by decide)

theorem exec_ldB_of_memWrite (h : s.memWrite s.i (bcdDigits (s.getV x)) = some t) :
    exec (.ldB x) s = .next t.advance := by
  simp only [exec, execLdB, h]

theorem exec_ldB_of_no_memWrite (h : s.memWrite s.i (bcdDigits (s.getV x)) = none) :
    exec (.ldB x) s = .next (s.raiseAt .outOfBounds (.ldB x)) := by
  simp only [exec, execLdB, h]

/-- A number no larger than a byte is a byte: so are its decimal digits. -/
theorem toNat_ofNat_of_le_byte {n : Nat} {b : Byte} (h : n ≤ b.toNat) : (BitVec.ofNat 8 n).toNat = n := by
  rw [BitVec.toNat_ofNat, Nat.mod_eq_of_lt (h.trans_lt b.isLt)]

/-- After the store of the digits of `b`: hundreds, tens, ones (R173). -/
theorem State.toNat_byteAt_of_bcdDigits_stored {addr : Word} {b : Byte} (wf : Memory.wf s.config s.mem)
    (h : s.memWrite addr (bcdDigits b) = some t) :
    (t.byteAt addr.toNat).toNat = b.toNat / 100 ∧ (t.byteAt (addr.toNat + 1)).toNat = b.toNat / 10 % 10 ∧
      (t.byteAt (addr.toNat + 2)).toNat = b.toNat % 10 := by
  have hundreds := State.byteAt_of_memWrite_inside wf h (k := 0) rfl
  have tens := State.byteAt_of_memWrite_inside wf h (k := 1) rfl
  have ones := State.byteAt_of_memWrite_inside wf h (k := 2) rfl
  rw [Nat.add_zero] at hundreds
  rw [hundreds, tens, ones]
  exact ⟨toNat_ofNat_of_le_byte (Nat.div_le_self ..),
    toNat_ofNat_of_le_byte ((Nat.mod_le ..).trans (Nat.div_le_self ..)), toNat_ofNat_of_le_byte (Nat.mod_le ..)⟩

theorem exec_storeRegs_of_no_memWrite (h : s.memWrite s.i (s.dumpV x) = none) :
    exec (.storeRegs x) s = .next (s.raiseAt .outOfBounds (.storeRegs x)) := by
  simp only [exec, execStoreRegs, h]

/-! ## Loads -/

theorem exec_loadRegs_of_memRead {bs : List Byte} (h : s.memRead s.i (x.toNat + 1) = some bs) :
    exec (.loadRegs x) s = .next ((s.loadV bs).bumpI x).advance := by
  simp only [exec, execLoadRegs, h]

theorem exec_loadRegs_of_no_memRead (h : s.memRead s.i (x.toNat + 1) = none) :
    exec (.loadRegs x) s = .next (s.raiseAt .outOfBounds (.loadRegs x)) := by
  simp only [exec, execLoadRegs, h]

/-- After the load of `n` bytes the first `n` registers hold them, and the others what they held (R175). -/
theorem State.getV_loadV_of_memRead {addr : Word} {n : Nat} {bs : List Byte} (h : s.memRead addr n = some bs)
    (r : Nibble) : (s.loadV bs).getV r = if r.toNat < n then s.byteAt (addr.toNat + r.toNat) else s.getV r := by
  rw [State.getV_loadV]
  split
  case isTrue loaded => rw [State.getElem?_of_memRead h loaded, Option.getD_some]
  case isFalse above =>
    rw [List.getElem?_eq_none (by rw [State.length_of_memRead h]; omega), Option.getD_none]

end Sys2Proof.Machine
end

section
/-! SUPPORT. The statements about the index register and memory (42_index_memory.md R170 to R176). -/

namespace Sys2Proof.Machine

/-- Settles O22: both write `I` alone; the immediate does not wrap, the sum does. -/
theorem indexLoadAndAdd : Obligations.IndexLoadAndAdd := by
  intro x nnn s
  simp only [List.forall_mem_cons]
  exact ⟨writes_of_eq_setI rfl (toNat_zext_addr nnn), writes_of_eq_setI rfl (toNat_add_zext_byte ..),
    List.forall_mem_nil _⟩

/-- Settles O23: the register holds a digit operand, or it does not. -/
theorem fontAddress : Obligations.FontAddress := by
  intro x s
  constructor
  · intro allowed
    have digit := (s.digitOperand_eq_some x ((s.getV x).setWidth 4)).2 ⟨allowed.symm, BitVec.toNat_setWidth ..⟩
    exact writes_of_eq_setI (exec_ldF_of_digit digit) (by rw [toNat_glyphAddr, BitVec.toNat_setWidth])
  · intro above unmasked
    exact faultsWith_of_eq_raiseAt (exec_ldF_of_no_digit ((s.digitOperand_eq_none x).2 ⟨unmasked, above⟩))

/-- Settles O24: the three digits are written, or their range leaves memory. -/
theorem bcdStore : Obligations.BcdStore := by
  intro x s wf
  constructor
  · intro fits
    obtain ⟨t, h⟩ := s.exists_memWrite_of_length (length_bcdDigits (s.getV x)) (n := 2) (addr := s.i) (by omega)
    obtain ⟨hundreds, tens, ones⟩ := State.toNat_byteAt_of_bcdDigits_stored wf h
    exact ⟨_, exec_ldB_of_memWrite h, hundreds, tens, ones,
      fun a outside => State.byteAt_of_memWrite_outside wf h (by rw [length_bcdDigits]; omega),
      by rw [State.advance_pc, State.pc_of_memWrite h], State.sameBut_advance_of_part (State.sameBut_memWrite h)⟩
  · intro out
    exact faultsWith_of_eq_raiseAt
      (exec_ldB_of_no_memWrite (State.memWrite_eq_none_of_length (length_bcdDigits _) (by omega)))

/-- Settles O25: the registers are written, or their range leaves memory. -/
theorem registerStore : Obligations.RegisterStore := by
  intro x s wf
  constructor
  · intro fits
    obtain ⟨t, h⟩ := s.exists_memWrite_of_length (s.length_dumpV x) fits
    have frame := State.sameBut_memWrite h
    refine ⟨_, exec_storeRegs_of_memWrite h, fun r upToX => ?_, fun a outside => ?_,
      State.toNat_i_bumpI_advance frame (by decide) (by decide) fits,
      by rw [State.advance_pc, State.bumpI_pc, State.pc_of_memWrite h], State.sameBut_bumpI_advance frame x⟩
    · rw [State.advance_byteAt, State.byteAt_bumpI, State.byteAt_of_dumpV_stored wf h upToX]
    · rw [State.advance_byteAt, State.byteAt_bumpI,
        State.byteAt_of_memWrite_outside wf h (by rw [State.length_dumpV]; omega)]
  · intro out
    exact faultsWith_of_eq_raiseAt
      (exec_storeRegs_of_no_memWrite (State.memWrite_eq_none_of_length (s.length_dumpV x) out))

/-- Settles O26: the bytes are read, or their range leaves memory. -/
theorem registerLoad : Obligations.RegisterLoad := by
  intro x s
  constructor
  · intro fits
    have h := (s.memRead_eq_some s.i (x.toNat + 1) _).2 ⟨.inr (by rw [memSize]; omega), rfl⟩
    have frame := s.sameBut_loadV (Memory.readBytes s.config s.mem s.i.toNat (x.toNat + 1))
    refine ⟨_, exec_loadRegs_of_memRead h, fun r => ?_,
      State.toNat_i_bumpI_advance frame (by decide) (by decide) fits, by rw [State.advance_pc, State.bumpI_pc]; rfl,
      State.sameBut_bumpI_advance frame x⟩
    rw [State.advance_getV, State.getV_bumpI, State.getV_loadV_of_memRead h]
    simp only [Nat.lt_succ_iff]
  · intro out
    exact faultsWith_of_eq_raiseAt
      (exec_loadRegs_of_no_memRead ((s.memRead_eq_none s.i _).2 ⟨by omega, by rw [memSize]; omega⟩))

end Sys2Proof.Machine
end

section
/-! SUPPORT. The display instructions (43_display.md R191, R192): every outcome of `CLS` and `DRW`, what a draw does to each
pixel and to VF, and the frames of a write of the display and of an answer to the host. -/

namespace Sys2Proof.Machine

variable (s : State) (x y n : Nibble)

/-! ## Frames -/

theorem State.sameBut_withDisplay (d : Display) : SameBut [.disp] s { s with disp := d } := by
  intro p hp
  cases p <;> simp_all [SamePart, State.getV, State.byteAt]

theorem State.sameBut_answer (r : Reply) : SameBut [.reply] s (s.answer r) := by
  intro p hp
  cases p <;> simp_all [SamePart]

/-! ## One draw -/

/-- What `DRW Vx, Vy, n` leaves when the `n` bytes at `I` lie in memory (R192). -/
def State.afterDraw : State :=
  let drawn := s.disp.drawSprite (s.getV x).toNat (s.getV y).toNat (s.spriteRows n)
  (({ s with disp := drawn.1 } : State).setFlag drawn.2).advance

theorem State.length_spriteRows_le : (s.spriteRows n).length ≤ 32 := by
  simp [State.spriteRows]
  omega

variable {s x y n}

theorem exec_drw_of_fits (fits : n = 0 ∨ s.i.toNat + n.toNat ≤ 4096) :
    exec (.drw x y n) s = .next (s.afterDraw x y n) := by
  have read : s.memRead s.i n.toNat = some (s.spriteRows n) :=
    (s.memRead_eq_some ..).2 ⟨fits.imp_left (congrArg BitVec.toNat), rfl⟩
  simp only [exec, execDrw, read, State.afterDraw]

theorem exec_drw_of_out (nonzero : n ≠ 0) (out : 4096 < s.i.toNat + n.toNat) :
    exec (.drw x y n) s = .next (s.raiseAt .outOfBounds (.drw x y n)) := by
  have read : s.memRead s.i n.toNat = none :=
    (s.memRead_eq_none ..).2 ⟨fun zero => nonzero (BitVec.eq_of_toNat_eq zero), out⟩
  simp only [exec, execDrw, read]

variable (s x y n)

theorem State.regsBut_afterDraw : RegsBut [15#4] s (s.afterDraw x y n) := fun _ hr =>
  State.getV_setV_of_ne _ _ (List.ne_of_not_mem_cons hr)

theorem State.sameBut_afterDraw : SameBut [.v, .disp, .pc] s (s.afterDraw x y n) :=
  ((s.sameBut_withDisplay _).mono (by simp)).trans
    ((State.sameBut_advance_of_regs (State.sameBut_setV _ 15#4 _)).mono (by simp))

/-! ## The pixels and VF after a draw -/

variable {s x y n} {px : Fin 64} {py : Fin 32}

/-- The computed bit of the sprite at `I` is that of R192. -/
theorem State.spriteBit_spriteRows :
    spriteBit (s.spriteRows n) (s.getV x).toNat (s.getV y).toNat px py = true ↔ s.drawCovers x y n px py :=
  spriteBit_eq_true _ (s.length_spriteRows_le n) ..

theorem State.pixel_afterDraw_of_covers (h : s.drawCovers x y n px py) :
    (s.afterDraw x y n).disp.pixel px py = !s.disp.pixel px py := by
  have bit := State.spriteBit_spriteRows.2 h
  exact (Display.pixel_drawSprite _ _ _ _ (s.length_spriteRows_le n) ..).trans (by rw [bit, Bool.xor_true])

theorem State.pixel_afterDraw_of_not_covers (h : ¬s.drawCovers x y n px py) :
    (s.afterDraw x y n).disp.pixel px py = s.disp.pixel px py := by
  have bit := Bool.eq_false_iff.2 (mt State.spriteBit_spriteRows.1 h)
  exact (Display.pixel_drawSprite _ _ _ _ (s.length_spriteRows_le n) ..).trans (by rw [bit, Bool.xor_false])

theorem flagByte_eq_one {f : Bool} : flagByte f = 1 ↔ f = true := by cases f <;> decide

theorem flagByte_eq_zero {f : Bool} : flagByte f = 0 ↔ ¬f = true := by cases f <;> decide

theorem State.getV_afterDraw_vf : (s.afterDraw x y n).getV 15#4 =
    flagByte (s.disp.drawSprite (s.getV x).toNat (s.getV y).toNat (s.spriteRows n)).2 :=
  State.getV_setV_same ..

theorem State.collision_drawSprite_iff :
    (s.disp.drawSprite (s.getV x).toNat (s.getV y).toNat (s.spriteRows n)).2 = true ↔
      ∃ px py, s.drawCovers x y n px py ∧ s.disp.pixel px py = true := by
  simp only [Display.collision_drawSprite _ _ _ _ (s.length_spriteRows_le n), State.spriteBit_spriteRows]

/-- VF reports a collision: some pixel under a 1 bit was on (R192). -/
theorem State.vf_afterDraw_eq_one :
    (s.afterDraw x y n).getV 15#4 = 1 ↔ ∃ px py, s.drawCovers x y n px py ∧ s.disp.pixel px py = true := by
  rw [State.getV_afterDraw_vf, flagByte_eq_one, State.collision_drawSprite_iff]

/-- VF reports no collision: every pixel under a 1 bit was off (R192). -/
theorem State.vf_afterDraw_eq_zero :
    (s.afterDraw x y n).getV 15#4 = 0 ↔ ∀ px py, s.drawCovers x y n px py → s.disp.pixel px py = false := by
  rw [State.getV_afterDraw_vf, flagByte_eq_zero, State.collision_drawSprite_iff]
  simp only [not_exists, not_and, Bool.not_eq_true]

/-! ## A second draw with the same arguments -/

/-- The state in which the second of two identical draws runs: only the display is the first one's. -/
def State.withDrawn (s : State) (x y n : Nibble) : State := { s with disp := (s.afterDraw x y n).disp }

/-- The two draws cover the same pixels: the display is no part of what is read. -/
theorem State.drawCovers_withDrawn : (s.withDrawn x y n).drawCovers x y n px py ↔ s.drawCovers x y n px py := Iff.rfl

theorem State.disp_afterDraw_withDrawn : ((s.withDrawn x y n).afterDraw x y n).disp = s.disp := by
  refine Display.ext_pixel fun px py => ?_
  by_cases covered : s.drawCovers x y n px py
  · rw [State.pixel_afterDraw_of_covers (State.drawCovers_withDrawn.2 covered), State.withDrawn,
      State.pixel_afterDraw_of_covers covered, Bool.not_not]
  · rw [State.pixel_afterDraw_of_not_covers (mt State.drawCovers_withDrawn.1 covered), State.withDrawn,
      State.pixel_afterDraw_of_not_covers covered]

/-- The second draw collides iff the first one turned a pixel on. -/
theorem State.vf_afterDraw_withDrawn_eq_one :
    ((s.withDrawn x y n).afterDraw x y n).getV 15#4 = 1 ↔
      ∃ px py, s.drawCovers x y n px py ∧ s.disp.pixel px py = false := by
  rw [State.vf_afterDraw_eq_one]
  refine exists₂_congr fun px py => and_congr_right fun covered => ?_
  rw [State.withDrawn, State.pixel_afterDraw_of_covers (State.drawCovers_withDrawn.1 covered), Bool.not_eq_true']

/-! ## Sprites with a 1 bit -/

theorem exists_getLsbD_of_ne_zero {b : Byte} (h : b ≠ 0) : ∃ c, c < 8 ∧ b.getLsbD (7 - c) = true := by
  by_contra! none
  refine h (BitVec.eq_of_getLsbD_eq fun k hk => ?_)
  have bit := none (7 - k) (by omega)
  rw [show 7 - (7 - k) = k by omega] at bit
  simpa using bit

/-- A sprite lies over some pixel iff one of its bytes has a 1 bit. -/
theorem exists_spriteCovers_iff (rows : List Byte) (x0 y0 : Nat) :
    (∃ px py, spriteCovers rows x0 y0 px py) ↔ ∃ b ∈ rows, b ≠ 0 := by
  constructor
  · rintro ⟨px, py, r, c, bits, row, -, bit, -, -⟩
    refine ⟨bits, List.mem_of_getElem? row, ?_⟩
    rintro rfl
    simp at bit
  · rintro ⟨bits, mem, nonzero⟩
    obtain ⟨r, row⟩ := List.mem_iff_getElem?.1 mem
    obtain ⟨c, hc, bit⟩ := exists_getLsbD_of_ne_zero nonzero
    exact ⟨⟨(x0 % 64 + c) % 64, by omega⟩, ⟨(y0 % 32 + r) % 32, by omega⟩, r, c, bits, row, hc, bit, rfl, rfl⟩

/-! ## Who observes the display, and what `SOUND_ACTIVE` reports -/

/-- `CLS` and `DRW` alone write the display (R35). -/
theorem disp_mem_instrParts {i : Instr} (h : ∀ x y n, i ≠ .drw x y n) : Part.disp ∈ instrParts i ↔ i = .cls := by
  cases i
  case drw x y n => exact absurd rfl (h x y n)
  all_goals simp [instrParts]

theorem State.soundActive_iff : s.soundActive = true ↔ 0 < s.st.toNat := by
  rw [State.soundActive, bne_iff_ne, ← BitVec.toNat_inj.ne, Nat.pos_iff_ne_zero]
  rfl

end Sys2Proof.Machine
end

section
/-! SUPPORT. The statements about the display and the host's reads (43_display.md R191 to R194, 60_exceptions.md R236). -/

namespace Sys2Proof.Machine

/-- Settles O30: the blank display, and the next instruction. -/
theorem clearScreen : Obligations.ClearScreen := fun s =>
  ⟨_, rfl, Display.pixel_blank, rfl, State.sameBut_advance_of_part (s.sameBut_withDisplay _)⟩

/-- Settles O31: the sprite is read and drawn, or its range leaves memory. -/
theorem drawSpritePixels : Obligations.DrawSpritePixels := fun x y n s =>
  ⟨fun fits => ⟨_, exec_drw_of_fits fits, fun _ _ => State.pixel_afterDraw_of_covers,
      fun _ _ => State.pixel_afterDraw_of_not_covers, State.vf_afterDraw_eq_one.2, State.vf_afterDraw_eq_zero.2,
      s.regsBut_afterDraw x y n, rfl, s.sameBut_afterDraw x y n⟩,
    fun nonzero out => faultsWith_of_eq_raiseAt (exec_drw_of_out nonzero out)⟩

/-- Settles O32: both draws invert the same pixels. -/
theorem drawTwiceRestores : Obligations.DrawTwiceRestores := fun _ _ _ _ fits =>
  ⟨_, _, exec_drw_of_fits fits, exec_drw_of_fits fits, State.disp_afterDraw_withDrawn,
    State.vf_afterDraw_withDrawn_eq_one⟩

/-- Settles O56: after a draw without collision every covered pixel was off before it, so the second draw collides iff
some pixel is covered. -/
theorem secondDrawAfterCleanDrawCollides : Obligations.SecondDrawAfterCleanDrawCollides := by
  intro x y n s fits
  refine ⟨_, _, exec_drw_of_fits fits, exec_drw_of_fits fits, fun clean => ?_⟩
  have off := State.vf_afterDraw_eq_zero.1 clean
  calc
    _ ↔ ∃ px py, s.drawCovers x y n px py ∧ s.disp.pixel px py = false := State.vf_afterDraw_withDrawn_eq_one
    _ ↔ ∃ px py, s.drawCovers x y n px py := exists₂_congr fun px py => and_iff_left_of_imp (off px py)
    _ ↔ ∃ b ∈ s.spriteRows n, b ≠ 0 := exists_spriteCovers_iff ..

/-- Refutes O33 in the state that `DRW V0, V0, 1` leaves at reset: the top row of the glyph of 0 is lit. Drawing it again
erases it, and the draw after that finds every pixel under the sprite off. -/
theorem not_secondDrawCollidesIffSpriteNonzero : ¬Obligations.SecondDrawCollidesIffSpriteNonzero := by
  intro h
  have someOff (s : State) (fits : (1 : Nibble) = 0 ∨ s.i.toNat + (1 : Nibble).toNat ≤ 4096)
      (nonzero : ∃ b ∈ s.spriteRows 1, b ≠ 0) : ∃ px py, s.drawCovers 0 0 1 px py ∧ s.disp.pixel px py = false :=
    State.vf_afterDraw_withDrawn_eq_one.1
      ((h 0 0 1 s _ _ (exec_drw_of_fits fits) rfl (exec_drw_of_fits fits)).2 nonzero)
  obtain ⟨px, py, covered, off⟩ :=
    someOff (State.reset.afterDraw 0 0 1) (.inr (by decide)) ⟨0xF0, by decide, by decide⟩
  have on : (State.reset.afterDraw 0 0 1).disp.pixel px py = !State.reset.disp.pixel px py :=
    State.pixel_afterDraw_of_covers covered
  have blank : State.reset.disp.pixel px py = false := Display.pixel_blank px py
  rw [off, blank] at on
  cases on

/-- Settles O41: each of the three is an `answer`. -/
theorem hostReadsChangeNothing : Obligations.HostReadsChangeNothing := fun s =>
  ⟨⟨_, rfl, rfl, s.sameBut_answer _⟩, ⟨_, _, rfl, rfl, State.soundActive_iff, s.sameBut_answer _⟩,
    ⟨_, rfl, rfl, s.sameBut_answer _⟩⟩

/-- Settles O52: no instruction but `DRW` observes the display, whatever `ST` and the keys are. -/
theorem displayIsObservedByDrawOnly : Obligations.DisplayIsObservedByDrawOnly := by
  intro i s t d noDraw h
  obtain ⟨keys, -⟩ := exec_keeps_keys_and_display h
  have e := exec_withPeripherals s s.st s.keys d i (.inl rfl) (.inr noDraw)
  rw [h, mapNext_next, exec_keeps_st h] at e
  simp only [disp_mem_instrParts noDraw] at e
  exact e.trans (by rw [← keys]; rfl)

end Sys2Proof.Machine
end

section
/-! SUPPORT. The key and timer instructions and `SET_KEY` (44_keys_timers.md R200 to R207, 60_exceptions.md R237): what
each leaves unchanged, every outcome of a skip on a key and of `SET_KEY`, and `STEP_CYCLE` during a wait. -/

namespace Sys2Proof.Machine

variable (s : State)

/-! ## Frames -/

/-- Two writes one after the other: the parts of either. -/
theorem SameBut.append {ps qs : List Part} {s t u : State} (h : SameBut ps s t) (k : SameBut qs t u) :
    SameBut (ps ++ qs) s u :=
  (h.mono fun _ => List.mem_append_left qs).trans (k.mono fun _ => List.mem_append_right ps)

theorem State.sameBut_withDt (b : Byte) : SameBut [.dt] s { s with dt := b } := by
  intro p hp
  cases p <;> simp_all [SamePart, State.getV, State.byteAt]

theorem State.sameBut_withSt (b : Byte) : SameBut [.st] s { s with st := b } := by
  intro p hp
  cases p <;> simp_all [SamePart, State.getV, State.byteAt]

/-- Only the wait's own fields and the execution state (R202). -/
theorem State.sameBut_withWait (b : Bool) (x : Nibble) (e : ExecState) :
    SameBut [.wait, .execState] s { s with waiting := b, waitReg := x, execState := e } := by
  intro p hp
  cases p <;> simp_all [SamePart, State.getV, State.byteAt]

/-- The end of a wait is a register write, the wait's fields, and the next instruction (R203). -/
theorem State.sameBut_completeWait (k : Nibble) : SameBut [.v, .wait, .execState, .pc] s (s.completeWait k) :=
  ((s.sameBut_setV s.waitReg _).append (State.sameBut_withWait _ false 0 .running)).append (State.sameBut_advance _)

/-! ## Skips on a key -/

theorem State.pc_skipIf_not (c : Bool) : (s.skipIf (!c)).pc = if c then s.pc + 2 else s.pc + 4 := by
  cases c <;> rfl

variable {s} {x k : Nibble}

theorem exec_skp_of_digit (h : s.digitOperand x = some k) : exec (.skp x) s = .next (s.skipIf (s.keyDown k)) := by
  simp only [exec, execSkp, h]

theorem exec_skp_of_no_digit (h : s.digitOperand x = none) :
    exec (.skp x) s = .next (s.raiseAt .invalidOperand (.skp x)) := by
  simp only [exec, execSkp, h]

theorem exec_sknp_of_digit (h : s.digitOperand x = some k) : exec (.sknp x) s = .next (s.skipIf (!s.keyDown k)) := by
  simp only [exec, execSknp, h]

theorem exec_sknp_of_no_digit (h : s.digitOperand x = none) :
    exec (.sknp x) s = .next (s.raiseAt .invalidOperand (.sknp x)) := by
  simp only [exec, execSknp, h]

/-! ## `STEP_CYCLE` outside `Running` -/

theorem stepCycle_of_not_running (h : s.execState ≠ .running) : stepCycle s = .next (s.answer s.cycleReport) := by
  rw [stepCycle, if_neg h, mapNext_next]

/-! ## `SET_KEY` -/

variable (s k) (down : Bool)

/-- What `SET_KEY` leaves of a real key's flag (R237). -/
def State.withKey : State := { s with keys := s.keys.set k.toNat down k.isLt }

theorem State.keyDown_withKey (j : Nibble) : (s.withKey k down).keyDown j = if j = k then down else s.keyDown j :=
  s.keyDown_set k j down

theorem State.sameBut_withKey : SameBut [.keys] s (s.withKey k down) := by
  intro p hp
  cases p <;> simp_all [SamePart, State.withKey, State.getV, State.byteAt]

theorem State.keyDown_completeWait (j : Nibble) : (s.completeWait k).keyDown j = s.keyDown j := rfl

/-- The target register holds the key's id (R203). -/
theorem State.toNat_getV_completeWait : ((s.completeWait k).getV s.waitReg).toNat = k.toNat := by
  have written : (s.completeWait k).getV s.waitReg = k.setWidth 8 := s.getV_setV_same ..
  rw [written, BitVec.toNat_setWidth_of_le (by decide)]

theorem State.regsBut_completeWait : RegsBut [s.waitReg] s (s.completeWait k) := s.regsBut_setV _ _

/-- Whether or not the wait ends, the flags are those `SET_KEY` wrote (R203, R237). -/
theorem State.keyDown_setKey (j : Nibble) :
    (s.setKey k.toNat down).keyDown j = if j = k then down else s.keyDown j := by
  rw [State.setKey_eq]
  split
  case isTrue => exact (State.keyDown_completeWait ..).trans (s.keyDown_withKey k down j)
  case isFalse => exact s.keyDown_withKey k down j

variable {s k down}

theorem State.setKey_of_completes (h : s.execState = .waitingForKey ∧ down = true ∧ s.keyDown k = false) :
    s.setKey k.toNat down = (s.withKey k down).completeWait k :=
  (s.setKey_eq k down).trans (if_pos h)

theorem State.setKey_of_not_completes (h : ¬(s.execState = .waitingForKey ∧ down = true ∧ s.keyDown k = false)) :
    s.setKey k.toNat down = s.withKey k down :=
  (s.setKey_eq k down).trans (if_neg h)

end Sys2Proof.Machine
end

section
/-! SUPPORT. The statements about keys and timers (44_keys_timers.md R200 to R207, 60_exceptions.md R237). -/

namespace Sys2Proof.Machine

/-- Settles O34: the register holds a digit operand, or it does not. -/
theorem skipsOnKey : Obligations.SkipsOnKey := by
  intro x s
  constructor
  · intro allowed k number
    have digit := (s.digitOperand_eq_some x k).2 ⟨allowed.symm, number⟩
    exact ⟨⟨_, exec_skp_of_digit digit, s.sameBut_skipIf _, s.skipIf_pc _⟩,
      ⟨_, exec_sknp_of_digit digit, s.sameBut_skipIf _, s.pc_skipIf_not _⟩⟩
  · intro above unmasked
    have noDigit := (s.digitOperand_eq_none x).2 ⟨unmasked, above⟩
    exact ⟨faultsWith_of_eq_raiseAt (exec_skp_of_no_digit noDigit),
      faultsWith_of_eq_raiseAt (exec_sknp_of_no_digit noDigit)⟩

/-- Settles O35: each writes one part and goes to the next instruction; the tone follows the byte in `ST`. -/
theorem timerTransfers : Obligations.TimerTransfers := fun x s =>
  ⟨⟨_, rfl, s.getV_setV_same x s.dt, s.regsBut_setV x s.dt, rfl,
      State.sameBut_advance_of_regs (s.sameBut_setV x s.dt)⟩,
    ⟨_, rfl, rfl, rfl, State.sameBut_advance_of_part (s.sameBut_withDt (s.getV x))⟩,
    ⟨_, rfl, rfl, bne_iff_ne, rfl, State.sameBut_advance_of_part (s.sameBut_withSt (s.getV x))⟩⟩

/-- Settles O36: the wait reads no key flag, and `STEP_CYCLE` does nothing outside `Running`. -/
theorem keyWaitIsEntered : Obligations.KeyWaitIsEntered := fun x s =>
  ⟨_, rfl, rfl, rfl, rfl, s.sameBut_withWait true x .waitingForKey,
    _, stepCycle_of_not_running (by simp), State.sameBut_answer _ _⟩

/-- Settles O37: the flag is written in every state, and the wait ends iff it went from up to down during one. -/
theorem setKeyCompletesWait : Obligations.SetKeyCompletesWait := by
  intro s down
  constructor
  · intro k
    refine ⟨(s.setKey k.toNat down).answer .none, rfl, ?_, fun j other => ?_, ?_⟩
    · rw [State.answer_keyDown, State.keyDown_setKey, if_pos rfl]
    · rw [State.answer_keyDown, State.keyDown_setKey, if_neg other]
    · split
      case isTrue completes =>
        rw [State.setKey_of_completes completes]
        have frame := (s.sameBut_withKey k down).append (State.sameBut_completeWait _ k)
        exact ⟨(s.withKey k down).toNat_getV_completeWait k, (s.withKey k down).regsBut_completeWait k, rfl, rfl, rfl,
          (frame.append (State.sameBut_answer _ .none)).mono (by simp)⟩
      case isFalse noCompletion =>
        rw [State.setKey_of_not_completes noCompletion]
        exact (s.sameBut_withKey k down).append (State.sameBut_answer _ .none)
  · intro k above
    refine ⟨_, rfl, ?_⟩
    rw [State.setKey_of_gt s above]
    exact s.sameBut_answer _

end Sys2Proof.Machine
end

section
/-! SUPPORT. Frames of the instructions: each takes its own fault, or writes its own parts and registers alone
(60_exceptions.md R243, 10_state.md R21, 40_flow.md R120). -/

namespace Sys2Proof.Machine

/-! ## Staying inside the frame -/

/-- From `s` to `t` only parts and registers of the instruction were written. -/
structure WithinFrame (i : Instr) (s t : State) : Prop where
  parts : SameBut (instrParts i) s t
  regs : ∀ r, instrWritesReg s.config i r = false → t.getV r = s.getV r

/-- The outcomes that the frame of an instruction allows. -/
inductive AnswersInFrame (i : Instr) (s : State) : Host.Outcome State Fault Refusal → Prop
  | faults {kind : FaultKind} (own : instrOwnFault s.config i = some kind) :
      AnswersInFrame i s (.next (s.raiseAt kind i))
  | writes {t : State} (frame : WithinFrame i s t) : AnswersInFrame i s (.next t)

variable {i : Instr} {s t : State} {x : Nibble} {b : Byte} {f : Bool}

/-- Where the registers are none of the instruction's parts, the parts are the whole frame. -/
theorem AnswersInFrame.of_parts (parts : SameBut (instrParts i) s t)
    (noReg : Part.v ∉ instrParts i := by simp [instrParts]) : AnswersInFrame i s (.next t) :=
  .writes ⟨parts, fun r _ => parts .v noReg r⟩

theorem AnswersInFrame.of_regsBut {rs : List Nibble} (parts : SameBut (instrParts i) s t) (regs : RegsBut rs s t)
    (written : ∀ r ∈ rs, instrWritesReg s.config i r = true) : AnswersInFrame i s (.next t) :=
  .writes ⟨parts, fun r kept => regs r fun listed => by simp [written r listed] at kept⟩

/-! ## The three ways of writing a result -/

theorem AnswersInFrame.of_setV (parts : instrParts i = [.v, .pc]) (reg : instrWritesReg s.config i x = true) :
    AnswersInFrame i s (.next (s.setV x b).advance) :=
  .of_regsBut (parts ▸ State.sameBut_advance_of_regs (s.sameBut_setV x b)) (s.regsBut_setV x b) (by simpa using reg)

theorem AnswersInFrame.of_writeWithFlag (parts : instrParts i = [.v, .pc])
    (regs : ∀ r, instrWritesReg s.config i r = (r == x || r == 15)) :
    AnswersInFrame i s (.next (s.writeWithFlag x b f)) :=
  .of_regsBut (parts ▸ s.sameBut_writeWithFlag x b f) (s.regsBut_writeWithFlag x b f) (by simp [regs])

/-- A logic instruction writes VF beside its result only with Q_LOGIC_RESETS_VF (R143). -/
theorem AnswersInFrame.of_writeLogic (parts : instrParts i = [.v, .pc])
    (regs : ∀ r, instrWritesReg s.config i r = (r == x || (s.config.logicResetsVf && r == 15))) :
    AnswersInFrame i s (.next (s.writeLogic x b)) := by
  refine .writes ⟨parts ▸ s.sameBut_writeLogic x b, fun r kept => ?_⟩
  obtain ⟨notX, notReset⟩ : r ≠ x ∧ ¬(r = 15#4 ∧ s.config.logicResetsVf = true) := by
    rw [regs] at kept
    simpa [and_comm, imp_not_comm] using kept
  rw [State.getV_writeLogic, if_neg notReset, if_neg notX]

/-! ## The operations that may fault -/

theorem State.sameBut_ret {a : Word} (h : s.pop = some (a, t)) : SameBut [.stack, .pc] s (t.setPc a) := by
  obtain ⟨-, kept⟩ := (State.pop_eq_some s t a).1 h
  rw [kept]
  exact s.sameBut_setPc_withStack _ a

theorem State.sameBut_call {a w : Word} (h : s.push a = some t) : SameBut [.stack, .pc] s (t.setPc w) := by
  obtain ⟨-, rfl⟩ := (State.push_eq_some s t a).1 h
  exact s.sameBut_setPc_withStack _ w

/-- The load of `V[0]` to `V[x]` writes no register above `x` (R175). -/
theorem withinFrame_loadRegs {bs : List Byte} (h : s.memRead s.i (x.toNat + 1) = some bs) :
    WithinFrame (.loadRegs x) s ((s.loadV bs).bumpI x).advance where
  parts := State.sameBut_bumpI_advance (s.sameBut_loadV bs) x
  regs r kept := by
    have above : ¬r.toNat < x.toNat + 1 := by
      have := of_decide_eq_false kept
      omega
    rw [State.advance_getV, State.getV_bumpI, State.getV_loadV_of_memRead h, if_neg above]

theorem instrOwnFault_of_no_digit (h : s.digitOperand x = none) :
    (if s.config.maskLowNibble then none else some FaultKind.invalidOperand) = some .invalidOperand := by
  rw [State.maskLowNibble_of_no_digit h]
  rfl

/-! ## Every instruction -/

theorem exec_answersInFrame (i : Instr) (s : State) : AnswersInFrame i s (exec i s) := by
  cases i with
  | cls => exact .of_parts (State.sameBut_advance_of_part (s.sameBut_withDisplay _))
  | ret =>
    cases popped : s.pop with
    | none => rw [exec_ret_of_no_pop popped]; exact .faults rfl
    | some top => rw [exec_ret_of_pop popped]; exact .of_parts (State.sameBut_ret popped)
  | sys nnn =>
    by_cases nop : s.config.sysNop = true
    · rw [exec_sys_of_sysNop nop]; exact .of_parts s.sameBut_advance
    · rw [exec_sys_of_not_sysNop nop]; exact .faults (if_neg nop)
  | jp nnn => exact .of_parts (s.sameBut_setPc _)
  | call nnn =>
    cases pushed : s.push (s.pc + 2) with
    | none => rw [exec_call_of_no_push pushed]; exact .faults rfl
    | some u => rw [exec_call_of_push pushed]; exact .of_parts (State.sameBut_call pushed)
  | seImm x nn => exact .of_parts (s.sameBut_skipIf _)
  | sneImm x nn => exact .of_parts (s.sameBut_skipIf _)
  | seReg x y n =>
    by_cases refused : s.strictRefuses n = true
    · rw [exec_seReg_of_strictRefuses refused]; exact .faults (if_pos refused)
    · rw [exec_seReg_of_not_strictRefuses refused]; exact .of_parts (s.sameBut_skipIf _)
  | sneReg x y n =>
    by_cases refused : s.strictRefuses n = true
    · rw [exec_sneReg_of_strictRefuses refused]; exact .faults (if_pos refused)
    · rw [exec_sneReg_of_not_strictRefuses refused]; exact .of_parts (s.sameBut_skipIf _)
  | ldImm x nn => exact .of_setV rfl (beq_self_eq_true x)
  | addImm x nn => exact .of_setV rfl (beq_self_eq_true x)
  | ldReg x y => exact .of_setV rfl (beq_self_eq_true x)
  | orReg x y => exact .of_writeLogic rfl fun _ => rfl
  | andReg x y => exact .of_writeLogic rfl fun _ => rfl
  | xorReg x y => exact .of_writeLogic rfl fun _ => rfl
  | addReg x y => exact .of_writeWithFlag rfl fun _ => rfl
  | subReg x y => exact .of_writeWithFlag rfl fun _ => rfl
  | shr x y => exact .of_writeWithFlag rfl fun _ => rfl
  | subn x y => exact .of_writeWithFlag rfl fun _ => rfl
  | shl x y => exact .of_writeWithFlag rfl fun _ => rfl
  | ldI nnn => exact .of_parts (State.sameBut_advance_of_part (s.sameBut_setI _))
  | jpV0 nnn => exact .of_parts (s.sameBut_setPc _)
  | rnd x nn =>
    have written := s.draw.2.sameBut_setV x (s.draw.1 &&& nn)
    exact .of_regsBut ((s.sameBut_draw.append (State.sameBut_advance_of_regs written)).mono (by simp [instrParts]))
      (s.draw.2.regsBut_setV x _) (by simp [instrWritesReg])
  | drw x y n =>
    by_cases fits : n = 0 ∨ s.i.toNat + n.toNat ≤ 4096
    · rw [exec_drw_of_fits fits]
      exact .of_regsBut (s.sameBut_afterDraw x y n) (s.regsBut_afterDraw x y n) (by simp [instrWritesReg])
    · obtain ⟨nonzero, out⟩ := not_or.1 fits
      rw [exec_drw_of_out nonzero (Nat.not_le.1 out)]; exact .faults rfl
  | skp x =>
    cases digit : s.digitOperand x with
    | none => rw [exec_skp_of_no_digit digit]; exact .faults (instrOwnFault_of_no_digit digit)
    | some k => rw [exec_skp_of_digit digit]; exact .of_parts (s.sameBut_skipIf _)
  | sknp x =>
    cases digit : s.digitOperand x with
    | none => rw [exec_sknp_of_no_digit digit]; exact .faults (instrOwnFault_of_no_digit digit)
    | some k => rw [exec_sknp_of_digit digit]; exact .of_parts (s.sameBut_skipIf _)
  | ldVxDt x => exact .of_setV rfl (beq_self_eq_true x)
  | ldVxK x => exact .of_parts (s.sameBut_withWait true x .waitingForKey)
  | ldDtVx x => exact .of_parts (State.sameBut_advance_of_part (s.sameBut_withDt _))
  | ldStVx x => exact .of_parts (State.sameBut_advance_of_part (s.sameBut_withSt _))
  | addI x => exact .of_parts (State.sameBut_advance_of_part (s.sameBut_setI _))
  | ldF x =>
    cases digit : s.digitOperand x with
    | none => rw [exec_ldF_of_no_digit digit]; exact .faults (instrOwnFault_of_no_digit digit)
    | some d => rw [exec_ldF_of_digit digit]; exact .of_parts (State.sameBut_advance_of_part (s.sameBut_setI _))
  | ldB x =>
    cases stored : s.memWrite s.i (bcdDigits (s.getV x)) with
    | none => rw [exec_ldB_of_no_memWrite stored]; exact .faults rfl
    | some u =>
      rw [exec_ldB_of_memWrite stored]
      exact .of_parts (State.sameBut_advance_of_part (State.sameBut_memWrite stored))
  | storeRegs x =>
    cases stored : s.memWrite s.i (s.dumpV x) with
    | none => rw [exec_storeRegs_of_no_memWrite stored]; exact .faults rfl
    | some u =>
      rw [exec_storeRegs_of_memWrite stored]
      exact .of_parts (State.sameBut_bumpI_advance (State.sameBut_memWrite stored) x)
  | loadRegs x =>
    cases read : s.memRead s.i (x.toNat + 1) with
    | none => rw [exec_loadRegs_of_no_memRead read]; exact .faults rfl
    | some bs => rw [exec_loadRegs_of_memRead read]; exact .writes (withinFrame_loadRegs read)

end Sys2Proof.Machine
end

section
/-! SUPPORT. The transactions: what each may change, how `n` timer ticks count, and what is left of them in `Halted`
(60_exceptions.md R231, R235, R237, R242, R243). -/

namespace Sys2Proof.Machine

variable {s t : State}

theorem SameBut.refl (ps : List Part) (s : State) : SameBut ps s s := fun p _ => .refl s p

/-- Recording the report after a change (log 4). -/
theorem SameBut.answer {ps : List Part} (h : SameBut ps s t) (r : Reply) : SameBut (.reply :: ps) s (t.answer r) :=
  (h.append (t.sameBut_answer r)).mono (by simp [or_comm])

/-! ## STEP_CYCLE -/

theorem instrParts_subset_stepCycle (i : Instr) : ∀ p ∈ instrParts i, p ∈ Transaction.stepCycle.parts := by
  cases i <;> simp [instrParts, Transaction.parts]

/-- Fault entry writes what `STEP_CYCLE` may write (R228). -/
theorem State.sameBut_raise (s : State) (k : FaultKind) (op : Option Word) :
    SameBut Transaction.stepCycle.parts s (s.raise k op) := by
  obtain ⟨-, -, frame⟩ := faultsWith_raise s k op
  exact frame.mono (by simp [Transaction.parts])

theorem sameBut_of_exec {i : Instr} (h : exec i s = .next t) : SameBut Transaction.stepCycle.parts s t := by
  have ans := exec_answersInFrame i s
  rw [h] at ans
  cases ans with
  | faults own => exact s.sameBut_raise _ _
  | writes frame => exact frame.parts.mono (instrParts_subset_stepCycle i)

theorem sameBut_of_fetchDecodeExec (h : fetchDecodeExec s = .next t) : SameBut Transaction.stepCycle.parts s t := by
  unfold fetchDecodeExec at h
  split at h
  case h_1 => cases h; exact s.sameBut_raise _ _
  case h_2 w fetched =>
    split at h
    case h_1 i decoded => exact sameBut_of_exec h
    case h_2 => cases h; exact s.sameBut_raise _ _

theorem sameBut_of_stepCycle (h : stepCycle s = .next t) : SameBut (.reply :: Transaction.stepCycle.parts) s t := by
  obtain ⟨u, hu, rfl⟩ := (mapNext_eq_next _ _ _).1 h
  refine SameBut.answer ?_ _
  split at hu
  case isTrue => exact sameBut_of_fetchDecodeExec hu
  case isFalse => cases hu; exact .refl _ s

/-! ## LOAD -/

theorem State.sameBut_load (s : State) (rom : List Byte) :
    SameBut (.reply :: (Transaction.load rom).parts) s (s.load rom) := by
  rcases Nat.lt_or_ge 3584 rom.length with tooLong | fits
  · rw [State.load_of_gt s tooLong]
    exact (SameBut.refl _ s).answer _
  · rw [State.load_of_le s fits]
    exact s.sameBut_launch rom

/-! ## TICK_TIMERS -/

theorem State.tickTimers_of_counting (h : s.execState = .running ∨ s.execState = .waitingForKey) :
    s.tickTimers = { s with dt := tickDown s.dt, st := tickDown s.st } :=
  s.tickTimers_eq.trans (if_pos h)

theorem State.tickTimers_of_not_counting (h : s.execState = .idle ∨ s.execState = .halted) : s.tickTimers = s := by
  rw [State.tickTimers_eq, if_neg]
  rcases h with idle | halted
  · simp [idle]
  · simp [halted]

theorem State.sameBut_tickTimers (s : State) : SameBut [.dt, .st] s s.tickTimers := by
  rw [State.tickTimers_eq]
  split
  case isTrue => exact (s.sameBut_withDt (tickDown s.dt)).append (State.sameBut_withSt _ (tickDown s.st))
  case isFalse => exact .refl _ s

theorem State.sameBut_ticks (s : State) (n : Nat) : SameBut [.dt, .st] s (s.ticks n) := by
  induction n generalizing s with
  | zero => exact .refl _ s
  | succ n ih => exact s.sameBut_tickTimers.trans (ih s.tickTimers)

theorem State.toNat_timers_ticks (n : Nat) (h : s.execState = .running ∨ s.execState = .waitingForKey) :
    (s.ticks n).dt.toNat = s.dt.toNat - n ∧ (s.ticks n).st.toNat = s.st.toNat - n := by
  induction n generalizing s with
  | zero => exact ⟨rfl, rfl⟩
  | succ n ih =>
    have counting : s.tickTimers.execState = s.execState := s.sameBut_tickTimers .execState (by decide)
    obtain ⟨dt, st⟩ := ih (counting ▸ h)
    rw [State.ticks, dt, st, State.tickTimers_of_counting h, toNat_tickDown, toNat_tickDown]
    omega

theorem State.ticks_of_not_counting (n : Nat) (h : s.execState = .idle ∨ s.execState = .halted) : s.ticks n = s := by
  induction n with
  | zero => rfl
  | succ n ih => rw [State.ticks, State.tickTimers_of_not_counting h, ih]

/-! ## SET_KEY -/

/-- `SET_KEY` of no key changes nothing, of a real key its flag, and during a wait it may also end the wait (R203,
R237). -/
theorem State.setKey_cases (s : State) (k : Nat) (down : Bool) :
    s.setKey k down = s ∨ (∃ q, s.setKey k down = s.withKey q down) ∨
      s.execState = .waitingForKey ∧ ∃ q, s.setKey k down = (s.withKey q down).completeWait q := by
  rcases Nat.lt_or_ge 15 k with above | real
  · exact .inl (s.setKey_of_gt above down)
  · obtain ⟨q, rfl⟩ : ∃ q : Nibble, q.toNat = k := ⟨BitVec.ofNat 4 k, by simp; omega⟩
    by_cases completes : s.execState = .waitingForKey ∧ down = true ∧ s.keyDown q = false
    · exact .inr (.inr ⟨completes.1, q, State.setKey_of_completes completes⟩)
    · exact .inr (.inl ⟨q, State.setKey_of_not_completes completes⟩)

theorem State.sameBut_setKey (s : State) (k : Nat) (down : Bool) :
    SameBut (Transaction.setKey k down).parts s (s.setKey k down) := by
  rcases s.setKey_cases k down with e | ⟨q, e⟩ | ⟨-, q, e⟩ <;> rw [e]
  · exact .refl _ s
  · exact (s.sameBut_withKey q down).mono (by simp [Transaction.parts])
  · exact ((s.sameBut_withKey q down).append (State.sameBut_completeWait _ q)).mono (by simp [Transaction.parts])

theorem State.regsBut_setKey (s : State) (k : Nat) (down : Bool) : RegsBut [s.waitReg] s (s.setKey k down) := by
  rcases s.setKey_cases k down with e | ⟨q, e⟩ | ⟨-, q, e⟩ <;> rw [e]
  · exact fun _ _ => rfl
  · exact fun _ _ => rfl
  · exact (s.withKey q down).regsBut_completeWait q

theorem State.sameBut_setKey_of_not_waiting (k : Nat) (down : Bool) (h : s.execState ≠ .waitingForKey) :
    SameBut [.keys] s (s.setKey k down) := by
  rcases s.setKey_cases k down with e | ⟨q, e⟩ | ⟨wait, -⟩
  · rw [e]
    exact .refl _ s
  · rw [e]
    exact s.sameBut_withKey q down
  · exact absurd wait h

/-! ## Every transaction -/

theorem sameBut_of_perform {tr : Transaction} (h : perform s tr = .next t) : SameBut (.reply :: tr.parts) s t := by
  cases tr with
  | load rom => cases h; exact s.sameBut_load rom
  | stepCycle => exact sameBut_of_stepCycle h
  | tickTimers => cases h; exact s.sameBut_tickTimers.answer _
  | setKey k down => cases h; exact (s.sameBut_setKey k down).answer _
  | snapshot => cases h; exact s.sameBut_answer _
  | soundActive => cases h; exact s.sameBut_answer _
  | stop => cases h; exact s.sameBut_answer _

/-- In `Halted` a transaction that loads no ROM changes nothing but a key flag, and that only as `SET_KEY` (R231,
R242). -/
theorem perform_of_halted {tr : Transaction} (halted : s.execState = .halted)
    (noLoad : ∀ rom, tr = .load rom → 3584 < rom.length) (h : perform s tr = .next t) :
    SameBut [.reply] s t ∨ ∃ k down, tr = .setKey k down ∧ SameBut [.keys, .reply] s t := by
  cases tr with
  | load rom =>
    cases h
    rw [State.load_of_gt s (noLoad rom rfl)]
    exact .inl (s.sameBut_answer _)
  | stepCycle =>
    rw [perform, stepCycle_of_not_running (by simp [halted])] at h
    cases h
    exact .inl (s.sameBut_answer _)
  | tickTimers =>
    cases h
    rw [State.tickTimers_of_not_counting (.inr halted)]
    exact .inl (s.sameBut_answer _)
  | setKey k down =>
    cases h
    have frame := State.sameBut_setKey_of_not_waiting k down (s := s) (by simp [halted])
    exact .inr ⟨k, down, rfl, frame.append (State.sameBut_answer _ _)⟩
  | snapshot => cases h; exact .inl (s.sameBut_answer _)
  | soundActive => cases h; exact .inl (s.sameBut_answer _)
  | stop => cases h; exact .inl (s.sameBut_answer _)

end Sys2Proof.Machine
end

section
/-! SUPPORT. The statements about faults, frames and ticks (60_exceptions.md R228 to R243). -/

namespace Sys2Proof.Machine

/-- Settles O38, by induction on the number of ticks; no tick leaves the execution state. -/
theorem ticksFloorAtZero : Obligations.TicksFloorAtZero := fun s n =>
  ⟨⟨_, rfl, State.sameBut_answer _ _⟩, s.sameBut_ticks n, State.toNat_timers_ticks n, State.ticks_of_not_counting n⟩

/-- Settles O43: of the three ways in which an instruction answers, only a fault leads into `Halted`. -/
theorem faultsArePrecise : Obligations.FaultsArePrecise := by
  intro i s t h notHalted halted
  have ans := exec_answers i s
  rw [h] at ans
  cases ans with
  | faults own => exact ⟨_, own, faultsWith_raiseAt s _ i⟩
  | waits wait => cases halted
  | completes done => exact absurd (done.execState.symm.trans halted) notHalted

/-- Settles O44: an instruction takes its own fault, or stays inside its frame. -/
theorem instructionFrame : Obligations.InstructionFrame := by
  intro i s t h
  have ans := exec_answersInFrame i s
  rw [h] at ans
  cases ans with
  | faults own => exact .inl ⟨_, own, faultsWith_raiseAt s _ i⟩
  | writes frame => exact .inr ⟨frame.parts, frame.regs⟩

/-- Settles O45: the frame of each transaction, and the one register that the end of a key wait writes. -/
theorem transactionFrame : Obligations.TransactionFrame := by
  intro tr s t h
  refine ⟨sameBut_of_perform h, ?_⟩
  rintro k down rfl
  cases h
  exact s.regsBut_setKey k down

/-- Settles O47: a transaction in `Halted` writes the report alone, or it is a `SET_KEY`. -/
theorem haltedIsTerminal : Obligations.HaltedIsTerminal := by
  intro tr s t halted noLoad h
  rcases perform_of_halted halted noLoad h with report | ⟨k, down, rfl, flag⟩
  · exact ⟨report.mono (by simp), fun _ => report⟩
  · exact ⟨flag, fun noKey => absurd rfl (noKey k down)⟩

/-- Settles O48: a step performs a transaction, which answers, and so does every instruction. -/
theorem stepAlwaysAnswers : Obligations.StepAlwaysAnswers :=
  ⟨fun s => perform_answers_next s.nextTransaction.2 s.nextTransaction.1, exec_answers_next⟩

end Sys2Proof.Machine
end

section
/-! SUPPORT. `STEP_CYCLE` in `Running` by what the fetch and the decoder answer, the three ways in which it can end, and the
execution state after each transaction that can change it (70_reset_and_hazards.md R263, R264). -/

namespace Sys2Proof.Machine

variable {s t : State} {w : Word} {i : Instr} {kind : FaultKind} {op : Option Word}

/-! ## Fetch, decode, execute -/

theorem fetchDecodeExec_of_no_fetch (h : s.fetch = none) : fetchDecodeExec s = .next (s.raise .outOfBounds none) := by
  simp only [fetchDecodeExec, h]

theorem fetchDecodeExec_of_illegal {e : DecodeError} (fetched : s.fetch = some w) (illegal : decodeWord w = .error e) :
    fetchDecodeExec s = .next (s.raise .unknownOpcode (some w)) := by
  simp only [fetchDecodeExec, fetched, illegal]

theorem fetchDecodeExec_of_decoded (fetched : s.fetch = some w) (decoded : decodeWord w = .ok i) :
    fetchDecodeExec s = exec i s := by
  simp only [fetchDecodeExec, fetched, decoded]

/-- The ways in which fetch, decode and execute can end: a fault, of the fetch, the decoder or the instruction; the wait of
an `FX0A`; or a completed instruction. -/
inductive CycleAnswers (s : State) : Host.Outcome State Fault Refusal → Prop
  | faults (kind : FaultKind) (op : Option Word) : CycleAnswers s (.next (s.raise kind op))
  | waits {w : Word} {x : Nibble} (fetched : s.fetch = some w) (decoded : decodeWord w = .ok (.ldVxK x)) :
      CycleAnswers s (.next { s with waiting := true, waitReg := x, execState := .waitingForKey })
  | completes {t : State} (done : Completes s t) : CycleAnswers s (.next t)

/-- The ways in which the decoded instruction can end are among them. -/
theorem Answers.cycleAnswers {o : Host.Outcome State Fault Refusal} (h : Answers i s o) (fetched : s.fetch = some w)
    (decoded : decodeWord w = .ok i) : CycleAnswers s o := by
  cases h with
  | faults own => exact .faults _ _
  | waits wait => subst wait; exact .waits fetched decoded
  | completes done => exact .completes done

theorem fetchDecodeExec_answers (s : State) : CycleAnswers s (fetchDecodeExec s) := by
  cases fetched : s.fetch with
  | none => rw [fetchDecodeExec_of_no_fetch fetched]; exact .faults _ _
  | some w =>
    cases decoded : decodeWord w with
    | error e => rw [fetchDecodeExec_of_illegal fetched decoded]; exact .faults _ _
    | ok i =>
      rw [fetchDecodeExec_of_decoded fetched decoded]
      exact (exec_answers i s).cycleAnswers fetched decoded

/-! ## STEP_CYCLE in `Running` -/

theorem stepCycle_of_running (run : s.execState = .running) :
    stepCycle s = mapNext (fun t => t.answer t.cycleReport) (fetchDecodeExec s) := by
  rw [stepCycle, if_pos run]

theorem stepCycle_of_decoded (run : s.execState = .running) (fetched : s.fetch = some w)
    (decoded : decodeWord w = .ok i) : stepCycle s = mapNext (fun t => t.answer t.cycleReport) (exec i s) := by
  rw [stepCycle_of_running run, fetchDecodeExec_of_decoded fetched decoded]

theorem State.cycleReport_of_running (run : s.execState = .running) : s.cycleReport = .ok := by
  simp only [State.cycleReport, run]

/-- A fault of the fetch or the decoder halts the block with its record, which is reported; nothing else changes (R228). -/
theorem stepCycle_halts (run : s.execState = .running) (h : fetchDecodeExec s = .next (s.raise kind op)) :
    ∃ t, stepCycle s = .next t ∧ t.execState = .halted ∧ t.fault = some ⟨kind, s.pc, op⟩ ∧
      t.reply = .faulted ⟨kind, s.pc, op⟩ ((s.raise kind op).faultInfo ⟨kind, s.pc, op⟩) ∧
      SameBut [.execState, .fault, .reply] s t := by
  obtain ⟨halted, record, frame⟩ := faultsWith_raise s kind op
  have cycle : stepCycle s = .next ((s.raise kind op).answer (s.raise kind op).cycleReport) := by
    rw [stepCycle_of_running run, h, mapNext_next]
  exact ⟨_, cycle, halted, record, rfl, frame.append (State.sameBut_answer _ _)⟩

/-! ## The execution state -/

theorem CycleAnswers.execState_ne_idle (h : CycleAnswers s (.next t)) (run : s.execState = .running) :
    t.execState ≠ .idle := by
  cases h with
  | faults => nofun
  | waits => nofun
  | completes done => rw [done.execState, run]; nofun

theorem CycleAnswers.fetched_of_waiting (h : CycleAnswers s (.next t)) (run : s.execState = .running)
    (wait : t.execState = .waitingForKey) : ∃ w x, s.fetch = some w ∧ decodeWord w = .ok (.ldVxK x) := by
  cases h with
  | faults => cases wait
  | waits fetched decoded => exact ⟨_, _, fetched, decoded⟩
  | completes done => rw [done.execState, run] at wait; cases wait

theorem CycleAnswers.eq_raise_of_halted (h : CycleAnswers s (.next t)) (run : s.execState = .running)
    (halted : t.execState = .halted) : ∃ kind op, t = s.raise kind op := by
  cases h with
  | faults kind op => exact ⟨kind, op, rfl⟩
  | waits => cases halted
  | completes done => rw [done.execState, run] at halted; cases halted

/-- The transitions out of `Running` (R263): `STEP_CYCLE` waits iff it ran an `FX0A`, and halts iff it took a fault. -/
theorem execState_of_stepCycle (run : s.execState = .running) (h : stepCycle s = .next t) :
    t.execState ≠ .idle ∧
    (t.execState = .waitingForKey ↔ ∃ w x, s.fetch = some w ∧ decodeWord w = .ok (.ldVxK x)) ∧
    (t.execState = .halted ↔ ∃ kind op, FaultsWith s (t.answer s.reply) kind op) := by
  rw [stepCycle_of_running run] at h
  obtain ⟨u, answer, rfl⟩ := (mapNext_eq_next _ _ _).1 h
  have cycle : CycleAnswers s (.next u) := answer ▸ fetchDecodeExec_answers s
  refine ⟨cycle.execState_ne_idle run, ⟨cycle.fetched_of_waiting run, ?_⟩, ⟨fun halted => ?_, ?_⟩⟩
  · rintro ⟨w, x, fetched, decoded⟩
    rw [fetchDecodeExec_of_decoded fetched decoded] at answer
    cases answer
    rfl
  · obtain ⟨kind, op, rfl⟩ := cycle.eq_raise_of_halted run halted
    exact ⟨kind, op, faultsWith_raise s kind op⟩
  · rintro ⟨kind, op, halted, -, -⟩
    exact halted

theorem State.execState_load (s : State) (rom : List Byte) :
    (s.load rom).execState = if rom.length ≤ 3584 then .running else s.execState := by
  split
  case isTrue fits => rw [State.load_of_le s fits]; rfl
  case isFalse tooLong => rw [State.load_of_gt s (Nat.not_le.1 tooLong)]; rfl

/-- `SET_KEY` that ends no wait, of a real key or of none (R203, R237). -/
theorem State.execState_setKey_of_not_completes {k : Nat} {down : Bool}
    (h : ¬(s.execState = .waitingForKey ∧ down = true ∧ ∃ q : Nibble, q.toNat = k ∧ s.keyDown q = false)) :
    (s.setKey k down).execState = s.execState := by
  rcases Nat.lt_or_ge 15 k with above | real
  · rw [State.setKey_of_gt s above]
  · obtain ⟨q, rfl⟩ : ∃ q : Nibble, q.toNat = k := ⟨BitVec.ofNat 4 k, by simp; omega⟩
    rw [State.setKey_of_not_completes fun ⟨wait, goesDown, up⟩ => h ⟨wait, goesDown, q, rfl, up⟩]
    rfl

/-! ## A jump to its own address -/

/-- The word `1aaa` is `JP aaa` (R95). -/
theorem decodeWord_jp (a : Addr12) : decodeWord (0x1#4 ++ a) = .ok (.jp a) := decodeOfEncode (.jp a) rfl

theorem exec_jp_self {a : Addr12} (h : s.pc.toNat = a.toNat) : exec (.jp a) s = .next s := by
  have target : a.zext = s.pc := BitVec.eq_of_toNat_eq ((toNat_zext_addr a).trans h.symm)
  rw [exec, execJp, target]
  rfl

end Sys2Proof.Machine
end

section
/-! SUPPORT. The statements about loading, `STEP_CYCLE` and the execution states (70_reset_and_hazards.md R260 to R276). -/

namespace Sys2Proof.Machine

/-- Settles O46: by transaction; in `Running` a `STEP_CYCLE` faults, waits or completes. -/
theorem execStateTransitions : Obligations.ExecStateTransitions := by
  intro tr s t h
  cases tr with
  | load rom => cases h; exact s.execState_load rom
  | stepCycle =>
    dsimp only
    split
    case isTrue run => exact execState_of_stepCycle run h
    case isFalse notRunning =>
      rw [perform, stepCycle_of_not_running notRunning] at h
      cases h
      rfl
  | tickTimers => cases h; exact s.sameBut_tickTimers .execState (by decide)
  | setKey k down =>
    cases h
    refine ⟨?_, State.execState_setKey_of_not_completes⟩
    rintro wait goesDown ⟨q, rfl, up⟩
    rw [State.setKey_of_completes ⟨wait, goesDown, up⟩]
    rfl
  | snapshot => cases h; rfl
  | soundActive => cases h; rfl
  | stop => cases h; rfl

/-- Settles O7: the step is a `STEP_CYCLE`, whose fetch and decoder do not read the schedule. -/
theorem stepRunsDecodedInstruction : Obligations.StepRunsDecodedInstruction := fun s _ _ run fetched decoded =>
  ⟨fun nothing => (step_of_no_pending nothing).trans (stepCycle_of_decoded run fetched decoded),
    fun rest next => (step_of_pending next).trans
      (stepCycle_of_decoded (s := s.withSchedule rest) run fetched decoded)⟩

/-- Settles O8: by what the execution state, the fetch and the decoder answer. -/
theorem stepCycleOtherwise : Obligations.StepCycleOtherwise := fun s =>
  ⟨stepCycle_of_not_running,
    fun run above => stepCycle_halts run (fetchDecodeExec_of_no_fetch (s.fetch_eq_none.2 above)),
    fun _ run fetched illegal => stepCycle_halts run (fetchDecodeExec_of_illegal fetched illegal)⟩

/-- Settles O40: the length is checked first. -/
theorem oversizeLoadIsRefused : Obligations.OversizeLoadIsRefused := fun s _ tooLong =>
  ⟨_, rfl, s.load_of_gt tooLong⟩

/-- Settles O42: the ROM of no bytes fits, and the fields that `LOAD` keeps are those of reset. -/
theorem resetIsLoadOfEmptyRom : Obligations.ResetIsLoadOfEmptyRom := by
  intro s config schedule draws
  rw [perform, s.load_of_le (Nat.zero_le _), State.launch, config, schedule, draws]
  rfl

/-- Settles O49: the jump's target is `pc`, so executing it changes nothing, and the report in `Running` is ok. -/
theorem idleLoopChangesNothing : Obligations.IdleLoopChangesNothing := by
  intro s a run atTarget fetched
  have cycle : stepCycle s = .next (s.answer s.cycleReport) := by
    rw [stepCycle_of_decoded run fetched (decodeWord_jp a), exec_jp_self atTarget, mapNext_next]
  exact ⟨_, cycle, State.cycleReport_of_running run, s.sameBut_answer _⟩

end Sys2Proof.Machine
end
